-- ==== Sys2Proof/Word.lean ====
section
/-! DEFINITION. The word types of ARCS: the widths that 00_scope.md R9, R10 and R12 give its ports and operands. -/

namespace Sys2Proof

/-- A byte on the two-wire bus, a register pointer (`PTR_W` = 8), or the operand `T` of a command. -/
abbrev Byte := BitVec 8

/-- A 16-bit word (`WORD_W`): the configuration word, a conversion code, a threshold, an operand `A` or `B`. -/
abbrev Word := BitVec 16

/-- A command word (`CMD_W` = 48), 30_encoding.md R60. -/
abbrev Cmd := BitVec 48

/-- A response word (`RSP_W` = 34), 30_encoding.md R66. -/
abbrev Rsp := BitVec 34

end Sys2Proof
end

