-- ==== Sys2Proof/Syntax.lean ====
section
/-! DEFINITION. The instructions of ARCS: one constructor per row of the opcode table (30_encoding.md R64), carrying
the operands its format reads (R61): nothing for N, `t` for T, `t a` for TA, `t a b` for TAB. -/

namespace Sys2Proof

/-- The 23 commands of 30_encoding.md R64. A reserved opcode is no instruction: the decoder names it (R65, R72). -/
inductive Instr where
  | enc
  | fld (t : Byte) (a : Word)
  | dly (t : Byte)
  | scl (t : Byte)
  | mv (t : Byte) (a : Word)
  | setch (t : Byte)
  | setdf (t : Byte)
  | setgain (t : Byte)
  | setrate (t : Byte)
  | setcmode (t : Byte)
  | setcpol (t : Byte)
  | setclat (t : Byte)
  | setcque (t : Byte)
  | acq
  | rdch (t : Byte)
  | rddf (t : Byte)
  | cont
  | getlast
  | cmpch (t : Byte) (a : Word)
  | cmpchl (t : Byte) (a b : Word)
  | cmpdf (t : Byte) (a : Word)
  | cmpdfl (t : Byte) (a b : Word)
  | clrlatch
  deriving DecidableEq, Repr

end Sys2Proof
end

