-- ==== Sys2Proof/WellFormed.lean ====
section
/-! DEFINITION. When an instruction's operand lies in the range 30_encoding.md R68 calls valid. Every instruction has
an encoding and a meaning whether or not it is well formed: outside the range its meaning is the fallback or the
refusal of R68, so neither the decoder, the encoder nor the machine asks for this check. -/

namespace Sys2Proof

/-- The largest valid `T` of each command that reads one (30_encoding.md R68); none where no `T` is read. -/
def Instr.maxT : Instr → Option Nat
  | .enc | .acq | .cont | .getlast | .clrlatch => none
  | .fld _ _ => some 8
  | .dly _ => some 7
  | .scl _ => some 5
  | .mv _ _ => some 5
  | .setch _ => some 3
  | .setdf _ => some 3
  | .setgain _ => some 7
  | .setrate _ => some 7
  | .setcmode _ | .setcpol _ | .setclat _ => some 1
  | .setcque _ => some 3
  | .rdch _ | .rddf _ => some 3
  | .cmpch _ _ | .cmpchl _ _ _ | .cmpdf _ _ | .cmpdfl _ _ _ => some 3

/-- The operand `T` of each command that reads one (30_encoding.md R61). -/
def Instr.operandT : Instr → Option Byte
  | .enc | .acq | .cont | .getlast | .clrlatch => none
  | .fld t _ | .mv t _ | .cmpch t _ | .cmpdf t _ => some t
  | .cmpchl t _ _ | .cmpdfl t _ _ => some t
  | .dly t | .scl t | .setch t | .setdf t | .setgain t | .setrate t => some t
  | .setcmode t | .setcpol t | .setclat t | .setcque t | .rdch t | .rddf t => some t

/-- The operand is one R68 calls valid; `A` and `B` have no invalid values. -/
def Instr.wellFormed (i : Instr) : Bool :=
  match i.operandT, i.maxT with
  | some t, some m => decide (t.toNat ≤ m)
  | _, _ => true

/-- Well-formedness as a proposition `decide` can settle. -/
abbrev Instr.WellFormed (i : Instr) : Prop := i.wellFormed = true

end Sys2Proof
end

