-- ==== Sys2Proof/Decode.lean ====
section
/-! DEFINITION. The decoder of command words, total on 48-bit words (30_encoding.md R60 to R65, R72), the encoder
written from the same tables (R70), and the assembler's operand rules and pseudo-instructions (R70, R71). -/

namespace Sys2Proof

/-- What a command word decodes to (30_encoding.md R72): an instruction, or the reserved opcode by its number. -/
inductive Decoded where
  | instr (i : Instr)
  | reserved (op : Byte)
  deriving DecidableEq, Repr

/-- `cmd[47:40]`, field `OP` (30_encoding.md R60). -/
def opField (w : Cmd) : Byte := w.extractLsb' 40 8
/-- `cmd[39:32]`, field `T`. -/
def tField (w : Cmd) : Byte := w.extractLsb' 32 8
/-- `cmd[31:16]`, field `A`. -/
def aField (w : Cmd) : Word := w.extractLsb' 16 16
/-- `cmd[15:0]`, field `B`. -/
def bField (w : Cmd) : Word := w.extractLsb' 0 16

/-- The opcode map of 30_encoding.md R64, read on the four fields of a word. Only `OP` selects the row (R63), and
every opcode the map does not list is reserved (R65). -/
def decodeFields (op t : Byte) (a b : Word) : Decoded :=
  match op with
  | 0x01#8 => .instr .enc
  | 0x02#8 => .instr (.fld t a)
  | 0x03#8 => .instr (.dly t)
  | 0x04#8 => .instr (.scl t)
  | 0x05#8 => .instr (.mv t a)
  | 0x10#8 => .instr (.setch t)
  | 0x11#8 => .instr (.setdf t)
  | 0x12#8 => .instr (.setgain t)
  | 0x13#8 => .instr (.setrate t)
  | 0x14#8 => .instr (.setcmode t)
  | 0x15#8 => .instr (.setcpol t)
  | 0x16#8 => .instr (.setclat t)
  | 0x17#8 => .instr (.setcque t)
  | 0x20#8 => .instr .acq
  | 0x21#8 => .instr (.rdch t)
  | 0x22#8 => .instr (.rddf t)
  | 0x28#8 => .instr .cont
  | 0x29#8 => .instr .getlast
  | 0x30#8 => .instr (.cmpch t a)
  | 0x31#8 => .instr (.cmpchl t a b)
  | 0x32#8 => .instr (.cmpdf t a)
  | 0x33#8 => .instr (.cmpdfl t a b)
  | 0x38#8 => .instr .clrlatch
  | op => .reserved op

/-- `decode_cmd(cmd)` (30_encoding.md R72). -/
def decode (w : Cmd) : Decoded :=
  decodeFields (opField w) (tField w) (aField w) (bField w)

/-- `OP` of each instruction (30_encoding.md R64). -/
def Instr.opcode : Instr → Byte
  | .enc => 0x01#8
  | .fld _ _ => 0x02#8
  | .dly _ => 0x03#8
  | .scl _ => 0x04#8
  | .mv _ _ => 0x05#8
  | .setch _ => 0x10#8
  | .setdf _ => 0x11#8
  | .setgain _ => 0x12#8
  | .setrate _ => 0x13#8
  | .setcmode _ => 0x14#8
  | .setcpol _ => 0x15#8
  | .setclat _ => 0x16#8
  | .setcque _ => 0x17#8
  | .acq => 0x20#8
  | .rdch _ => 0x21#8
  | .rddf _ => 0x22#8
  | .cont => 0x28#8
  | .getlast => 0x29#8
  | .cmpch _ _ => 0x30#8
  | .cmpchl _ _ _ => 0x31#8
  | .cmpdf _ _ => 0x32#8
  | .cmpdfl _ _ _ => 0x33#8
  | .clrlatch => 0x38#8

/-- The operand `A` of each instruction, 0 where its format does not read it (30_encoding.md R61, R70). -/
def Instr.operandA : Instr → Word
  | .fld _ a | .mv _ a | .cmpch _ a | .cmpdf _ a => a
  | .cmpchl _ a _ | .cmpdfl _ a _ => a
  | .enc | .acq | .cont | .getlast | .clrlatch => 0
  | .dly _ | .scl _ | .setch _ | .setdf _ | .setgain _ | .setrate _ => 0
  | .setcmode _ | .setcpol _ | .setclat _ | .setcque _ | .rdch _ | .rddf _ => 0

/-- The operand `B` of each instruction, 0 where its format does not read it (30_encoding.md R61, R70). -/
def Instr.operandB : Instr → Word
  | .cmpchl _ _ b | .cmpdfl _ _ b => b
  | .fld _ _ | .mv _ _ | .cmpch _ _ | .cmpdf _ _ => 0
  | .enc | .acq | .cont | .getlast | .clrlatch => 0
  | .dly _ | .scl _ | .setch _ | .setdf _ | .setgain _ | .setrate _ => 0
  | .setcmode _ | .setcpol _ | .setclat _ | .setcque _ | .rdch _ | .rddf _ => 0

/-- `{OP, T, A, B}`, each field at its bits (30_encoding.md R60). -/
def packFields (op t : Byte) (a b : Word) : Cmd :=
  (op.setWidth 48 <<< 40) ||| (t.setWidth 48 <<< 32) ||| (a.setWidth 48 <<< 16) ||| b.setWidth 48

/-- The word of an instruction, its unread fields written as 0 (30_encoding.md R70). -/
def encode (i : Instr) : Cmd :=
  packFields i.opcode (i.operandT.getD 0) i.operandA i.operandB

/-- The bits of the word that an instruction's format reads: `OP`, and `T`, `A`, `B` as R61 has it; the decoder
ignores the others (30_encoding.md R63). -/
def Instr.readMask : Instr → Cmd
  | .enc | .acq | .cont | .getlast | .clrlatch => 0xFF0000000000
  | .dly _ | .scl _ | .setch _ | .setdf _ | .setgain _ | .setrate _ => 0xFFFF00000000
  | .setcmode _ | .setcpol _ | .setclat _ | .setcque _ | .rdch _ | .rddf _ => 0xFFFF00000000
  | .fld _ _ | .mv _ _ | .cmpch _ _ | .cmpdf _ _ => 0xFFFFFFFF0000
  | .cmpchl _ _ _ | .cmpdfl _ _ _ => 0xFFFFFFFFFFFF

/-- What the decoder reads from the low `nbits` bits of `w`, bits numbered as the opcode table numbers them: bit 0
is the least significant bit of the one 48-bit command word. -/
def decodeTableWord (nbits w : Nat) : Option Instr :=
  match decode (BitVec.ofNat 48 (w % 2 ^ nbits)) with
  | .instr i => some i
  | .reserved _ => none

/-- The two pseudo-instructions of 30_encoding.md R71, with their expansion. -/
def expandPseudo (name : String) (t : Byte) : Option (List Instr) :=
  match name with
  | "ACQCH" => some [.setch t, .acq]
  | "ACQDF" => some [.setdf t, .acq]
  | _ => none

/-- The number of a `T` operand: 0..255 (30_encoding.md R62). -/
def asmT (n : Int) : Option Byte :=
  if 0 ≤ n ∧ n ≤ 255 then some (BitVec.ofInt 8 n) else none

/-- The number of an unsigned 16-bit operand: 0..65535 (30_encoding.md R62). -/
def asmU (n : Int) : Option Word :=
  if 0 ≤ n ∧ n ≤ 65535 then some (BitVec.ofInt 16 n) else none

/-- The operand `A` of MV, which may also be written as a negative number (30_encoding.md R70). -/
def asmS (n : Int) : Option Word :=
  if -32768 ≤ n ∧ n ≤ 65535 then some (BitVec.ofInt 16 n) else none

/-- One assembler line, split into its mnemonic and the numbers after it, to the commands it stands for
(30_encoding.md R70, R71): the operands a format reads in the order `T`, `A`, `B` (log 17). -/
def assembleLine (name : String) (args : List Int) : Option (List Instr) :=
  match name, args with
  | "ENC", [] => some [.enc]
  | "FLD", [t, a] => do return [.fld (← asmT t) (← asmU a)]
  | "DLY", [t] => do return [.dly (← asmT t)]
  | "SCL", [t] => do return [.scl (← asmT t)]
  | "MV", [t, a] => do return [.mv (← asmT t) (← asmS a)]
  | "SETCH", [t] => do return [.setch (← asmT t)]
  | "SETDF", [t] => do return [.setdf (← asmT t)]
  | "SETGAIN", [t] => do return [.setgain (← asmT t)]
  | "SETRATE", [t] => do return [.setrate (← asmT t)]
  | "SETCMODE", [t] => do return [.setcmode (← asmT t)]
  | "SETCPOL", [t] => do return [.setcpol (← asmT t)]
  | "SETCLAT", [t] => do return [.setclat (← asmT t)]
  | "SETCQUE", [t] => do return [.setcque (← asmT t)]
  | "ACQ", [] => some [.acq]
  | "RDCH", [t] => do return [.rdch (← asmT t)]
  | "RDDF", [t] => do return [.rddf (← asmT t)]
  | "CONT", [] => some [.cont]
  | "GETLAST", [] => some [.getlast]
  | "CMPCH", [t, a] => do return [.cmpch (← asmT t) (← asmU a)]
  | "CMPCHL", [t, a, b] => do return [.cmpchl (← asmT t) (← asmU a) (← asmU b)]
  | "CMPDF", [t, a] => do return [.cmpdf (← asmT t) (← asmU a)]
  | "CMPDFL", [t, a, b] => do return [.cmpdfl (← asmT t) (← asmU a) (← asmU b)]
  | "CLRLATCH", [] => some [.clrlatch]
  | _, [t] => do expandPseudo name (← asmT t)
  | _, _ => none

end Sys2Proof
end

