-- ==== Sys2Proof/Config.lean ====
section
/-! DEFINITION. The implementation parameters of 00_scope.md R10 and the free values of the model. What the spec
leaves OPEN (92_eei_decisions.md, last section) is a field of `Config`. -/

namespace Sys2Proof

/-- The parameters the spec leaves open (00_scope.md R10; decisions D9, D12 to D16), one machine's choice of each.
State holds one such record and no step changes it, so a claim about every state holds for every choice (log 1). -/
structure Config where
  /-- `ADDR_TABLE[0..3]`, the four bus addresses a strap selects; entry 0 is the ground address (D15). -/
  addrTable : Vector (BitVec 7) 4
  /-- `ADDR_SEL`, the level of the `addr_sel` strap at power-on (D15). -/
  addrSel : BitVec 2
  /-- `SCALE128[0..5]`, units of 1/128 mV per code (D14). -/
  scale128 : Vector Word 6
  /-- `MUX_DIFF[0..3]`, the multiplexer codes of the four differential pairs (D9). -/
  muxDiff : Vector (BitVec 3) 4
  /-- `MUX_CH[0..3]`, the multiplexer codes of the four single-ended channels (D9). -/
  muxCh : Vector (BitVec 3) 4
  /-- `MODE_SINGLE`, the operating-mode bit of single-shot mode (D12). -/
  modeSingle : BitVec 1
  /-- `MODE_CONT`, the operating-mode bit of continuous mode (D12). -/
  modeCont : BitVec 1
  /-- `QUE_DISABLED`, the CQUE code that disables the comparator (D13). -/
  queDisabled : BitVec 2
  /-- `DEFAULT_WORD`, the configuration word a session starts from (D16). -/
  defaultWord : Word
  deriving DecidableEq, Repr

/-- The default value of every open parameter (00_scope.md R10, column "value"). -/
def Config.standard : Config where
  addrTable := #v[0x48, 0x49, 0x4A, 0x4B]
  addrSel := 0
  scale128 := #v[24, 16, 8, 4, 2, 1]
  muxDiff := #v[0, 1, 2, 3]
  muxCh := #v[4, 5, 6, 7]
  modeSingle := 1
  modeCont := 0
  queDisabled := 3
  defaultWord := 0x4183

/-- The constraints of 00_scope.md R10, column "constraint": four distinct addresses, six positive scales, every
differential code below (so distinct from) every channel code, two distinct mode bits, and a default word with the
widest gain, a mid rate (3 or 4) and the single-shot mode bit. -/
def Config.ok (c : Config) : Bool :=
  decide c.addrTable.toList.Nodup
    && c.scale128.toList.all (fun v => v != 0)
    && c.muxDiff.toList.all (fun d => c.muxCh.toList.all (fun m => d.ult m))
    && c.modeSingle != c.modeCont
    && c.defaultWord.extractLsb' 9 3 == 0
    && (c.defaultWord.extractLsb' 5 3 == 3 || c.defaultWord.extractLsb' 5 3 == 4)
    && c.defaultWord.extractLsb' 8 1 == c.modeSingle

/-- One primitive on the observable bus trace (20_memory.md R43): `BT(a)`, `W(b)`, `ET`, `RQ(a, n)`, `RB→b`. -/
inductive BusEvent where
  | bt (addr : BitVec 7)
  | w (b : Byte)
  | et
  | rq (addr : BitVec 7) (n : Nat)
  | rb (b : Byte)
  deriving DecidableEq, Repr

/-- Free value: what the bus trace shows where a reset has cut a transaction (70_reset_and_hazards.md R177, log 10). -/
opaque Config.freeTrace : Nat → List BusEvent

/-- Free value: a byte that the transport's `read()` returns and nothing fixes (20_memory.md R49, log 5). -/
opaque Config.freeByte : Nat → Byte

/-- Free value: what CUR holds where the spec calls it unspecified (10_state.md R25, R31, log 4, log 12). -/
opaque Config.freeCur : Nat → Cmd

/-- Free value: what UPC holds where the spec calls it unspecified (10_state.md R25, R31, log 4, log 12). -/
opaque Config.freeUpc : Nat → BitVec 4

/-- Free value: what LASTW holds after a reset in a run (10_state.md R31, log 12). -/
opaque Config.freeLastw : Nat → Word

end Sys2Proof
end

