-- ==== Sys2Proof/Machine/Session.lean ====
section
/-! DEFINITION. The session: ARCS's nine field registers (10_state.md R20). -/

namespace Sys2Proof.Machine

/-- The nine field registers `S`, each a raw bit vector of its field's width (10_state.md R20, decision D8). -/
structure Session where
  /-- Comparator assertion queue or disable, word bits 1:0. -/
  cque : BitVec 2
  /-- Comparator latching, bit 2. -/
  clat : BitVec 1
  /-- Comparator polarity, bit 3. -/
  cpol : BitVec 1
  /-- Comparator mode, bit 4. -/
  cmode : BitVec 1
  /-- Sample rate, bits 7:5. -/
  rate : BitVec 3
  /-- Operating mode, bit 8. -/
  mode : BitVec 1
  /-- Gain, bits 11:9. -/
  gain : BitVec 3
  /-- Multiplexer, bits 14:12. -/
  mux : BitVec 3
  /-- Start-conversion flag, bit 15. -/
  os : BitVec 1
  deriving DecidableEq, Repr

end Sys2Proof.Machine
end

