-- ==== Sys2Proof/Machine/Codec.lean ====
section
/-! DEFINITION. The register codec: the pure functions of 40_codec.md part 1. They are also ARCS's four combinational
ports (00_scope.md R9): `enc_word`, `dec_fields`, `dly_ms`, `scl_128`. -/

namespace Sys2Proof.Machine

/-- The field table of 40_codec.md R80: shift and width of field `f`, in the order of the selector `f` = 0..8. -/
def fieldTable : Vector (Nat × Nat) 9 :=
  #v[(0, 2), (2, 1), (3, 1), (4, 1), (5, 3), (8, 1), (9, 3), (12, 3), (15, 1)]

/-- `DELAY_MS[0..7]`, milliseconds by RATE code; the values are the source's (40_codec.md R85). -/
def delayMs : Vector (BitVec 7) 8 := #v[126, 64, 33, 17, 9, 5, 4, 3]

/-- `DELAY_FALLBACK` (40_codec.md R85). -/
def delayFallback : BitVec 7 := 126

/-- `SCALE_FALLBACK` (40_codec.md R86). -/
def scaleFallback : Word := 0

/-- `encode(S)`: each field shifted into its bit range, OR-ed (40_codec.md R81). Port `enc_word`. -/
def Codec.encode (S : Session) : Word :=
  S.cque.setWidth 16
    ||| (S.clat.setWidth 16 <<< 2)
    ||| (S.cpol.setWidth 16 <<< 3)
    ||| (S.cmode.setWidth 16 <<< 4)
    ||| (S.rate.setWidth 16 <<< 5)
    ||| (S.mode.setWidth 16 <<< 8)
    ||| (S.gain.setWidth 16 <<< 9)
    ||| (S.mux.setWidth 16 <<< 12)
    ||| (S.os.setWidth 16 <<< 15)

/-- `decode(w)` (40_codec.md R82). Port `dec_fields`. -/
def Codec.decode (w : Word) : Session where
  cque := w.extractLsb' 0 2
  clat := w.extractLsb' 2 1
  cpol := w.extractLsb' 3 1
  cmode := w.extractLsb' 4 1
  rate := w.extractLsb' 5 3
  mode := w.extractLsb' 8 1
  gain := w.extractLsb' 9 3
  mux := w.extractLsb' 12 3
  os := w.extractLsb' 15 1

/-- `field(w, f)`: shift right and mask (40_codec.md R83); none for a selector above 8. -/
def Codec.field (w : Word) (f : Byte) : Option (BitVec 3) :=
  match fieldTable[f.toNat]? with
  | some (lo, width) => some (((w >>> lo) &&& BitVec.ofNat 16 (2 ^ width - 1)).setWidth 3)
  | none => none

/-- `valid(S)`: the gain is one of the six (10_state.md R32). -/
def Session.valid (S : Session) : Bool := S.gain.ule 5

/-- `delayFor(r)`, milliseconds (40_codec.md R85). Port `dly_ms`. -/
def Codec.delayFor (r : Byte) : BitVec 7 := (delayMs[r.toNat]?).getD delayFallback

/-- `scale128(g)`, units of 1/128 mV per code (40_codec.md R86). Port `scl_128`. -/
def Codec.scale128 (c : Config) (g : Byte) : Word := (c.scale128[g.toNat]?).getD scaleFallback

/-- `toMv128(c, g)`: the exact signed product, in 32 bits (40_codec.md R87). -/
def Codec.toMv128 (c : Config) (code : Word) (g : Byte) : BitVec 32 :=
  code.signExtend 32 * (Codec.scale128 c g).setWidth 32

/-- `MUX_CH[c]`, none where the channel index is out of range (40_codec.md R88). -/
def channelMux (c : Config) (t : Byte) : Option (BitVec 3) := c.muxCh[t.toNat]?

/-- `chmux(c)`: an unmapped channel index is channel 0 (40_codec.md R88; `CH_FALLBACK` = `MUX_CH[0]`, R10). -/
def Codec.chmux (c : Config) (t : Byte) : BitVec 3 := (channelMux c t).getD c.muxCh[0]

/-- `diffmux(p)`, none where it is not defined (40_codec.md R88). -/
def Codec.diffmux (c : Config) (t : Byte) : Option (BitVec 3) := c.muxDiff[t.toNat]?

end Sys2Proof.Machine
end

