-- ==== Sys2Proof/Machine/State.lean ====
section
/-! DEFINITION. The state of ARCS and of what its ports see, as plain data, and the state right after reset
(10_state.md; 70_reset_and_hazards.md R175). -/

namespace Sys2Proof.Machine

/-- The sequencer phase SEQ (10_state.md R24). Codes 5 to 7 are never reached and left out (R24, U18, log 16). -/
inductive Phase where
  | idle
  | issue
  | configWritten
  | settling
  | resultReady
  deriving DecidableEq, Repr

/-- One move of one agent (00_scope.md R8, R9; 10_state.md R35; log 6). -/
inductive Move where
  /-- The sequencer takes its next step, if one is enabled. -/
  | sequencer
  /-- The timebase delivers a tick (42_single_shot.md R119). -/
  | tick
  /-- `rst` is asserted. If the step it meets is a bus transaction, `issued` of its primitives have gone out
  (70_reset_and_hazards.md R175, R177; log 10). -/
  | reset (issued : Nat)
  /-- The transaction the sequencer next performs is begun, but its primitive number `k`, counted from 0, never
  completes (20_memory.md R55, 60_exceptions.md R153; log 15). -/
  | stall (k : Nat)
  /-- The `addr_sel` strap takes a level (00_scope.md R9). -/
  | strap (level : BitVec 2)
  /-- The host adds a command to those it presents (00_scope.md R8; log 7). -/
  | host (word : Cmd)
  deriving DecidableEq, Repr

/-- Everything the spec gives ARCS, and what stands on its ports. -/
structure State where
  /-- The parameters of 00_scope.md R10; no step changes them (log 1). -/
  cfg : Config
  /-- The level of the `addr_sel` port, read at reset only (00_scope.md R9). -/
  addrSel : BitVec 2
  /-- ADDR, the converter's bus address (10_state.md R21). -/
  addr : BitVec 7
  /-- S, the nine session fields (10_state.md R20). -/
  sess : Session
  /-- SEQ (10_state.md R24). -/
  seq : Phase
  /-- CUR, the latched command word (10_state.md R25). -/
  cur : Cmd
  /-- UPC, the index of the next micro-step (10_state.md R25). -/
  upc : BitVec 4
  /-- TMR, the settle timer in milliseconds (10_state.md R26). -/
  tmr : BitVec 7
  /-- RES, the conversion code last read (10_state.md R27). -/
  res : Word
  /-- RESG, the gain of the last configuration word written (10_state.md R27). -/
  resg : BitVec 3
  /-- LASTW, ghost: the last word sent to device register 1 (10_state.md R28). -/
  lastw : Word
  /-- LASTW_VALID, ghost: there has been one since reset (10_state.md R28). -/
  lastwValid : Bool
  /-- The commands the host presents, oldest first; the head is on the `cmd` port (00_scope.md R9, log 7). -/
  cmds : List Cmd
  /-- The responses given, oldest first, one per accepted command (30_encoding.md R66, log 8). -/
  rsps : List Rsp
  /-- The bus trace, oldest first (20_memory.md R43, log 9). -/
  bus : List BusEvent
  /-- A reset has cut a transaction, so the trace from there on is unconstrained (70_reset_and_hazards.md R177,
  log 10). -/
  busCut : Bool
  /-- The transport has not completed a primitive and never will: ARCS waits until a reset (20_memory.md R55, log 15). -/
  stalled : Bool
  /-- How often `tb_restart` has pulsed (42_single_shot.md R119, log 13). -/
  tbRestarts : Nat
  /-- Bytes the transport will return, as far as fixed in advance (20_memory.md R49, log 5). -/
  rx : List Byte
  /-- The moves still to come, the next one first (10_state.md R35, log 6). -/
  sched : List Move
  /-- The model's own counter of free values drawn (log 4). -/
  freeIdx : Nat
  deriving DecidableEq, Repr

/-- Why a step stops the machine. The spec has no fault (00_scope.md R16, 60_exceptions.md R151). -/
inductive Fault where
  /-- SEQ is not IDLE, yet CUR and UPC name no micro-step of a command. Raised by `runProgram` and by `sequencerStep`.
  Safe: the machine stops in a state that no rule reaches (log 11). -/
  | sequencerOutOfStep
  deriving DecidableEq, Repr

/-- Why a step has no meaning. -/
inductive Refusal where
  /-- The instruction has no meaning in this model; raised by an arm of `exec` only, and no arm raises it. Safe. -/
  | notModelled (mnemonic : String)
  deriving DecidableEq, Repr

/-- The state after power-on reset with parameters `c` (10_state.md R31). CUR, UPC and LASTW, unspecified there, are 0
(DESIGN CHOICE, log 2, log 3); nothing has yet happened at the ports. -/
def State.initial (c : Config) : State where
  cfg := c
  addrSel := c.addrSel
  addr := c.addrTable[c.addrSel.toNat]
  sess := Codec.decode c.defaultWord
  seq := .idle
  cur := 0
  upc := 0
  tmr := 0
  res := 0
  resg := (Codec.decode c.defaultWord).gain
  lastw := 0
  lastwValid := false
  cmds := []
  rsps := []
  bus := []
  busCut := false
  stalled := false
  tbRestarts := 0
  rx := []
  sched := []
  freeIdx := 0

/-- The state right after reset with the default parameters (10_state.md R31, 00_scope.md R10). -/
def State.reset : State := State.initial Config.standard

end Sys2Proof.Machine
end

