-- ==== Sys2Proof/Machine/Flags.lean ====
section
/-! DEFINITION. The two status bits of a response, and the response word (10_state.md R29; 30_encoding.md R66). ARCS
has no condition codes and holds the two bits nowhere but in the response. -/

namespace Sys2Proof.Machine

/-- The status bits `st` of `Respond(st, v)` (00_scope.md R15, R16). -/
structure Status where
  /-- The opcode was reserved. -/
  badop : Bool
  /-- A fallback or a refusal occurred. -/
  range : Bool
  deriving DecidableEq, Repr

/-- Both bits 0, written `OK` (00_scope.md R16). -/
def Status.ok : Status := ⟨false, false⟩

/-- `{RANGE = r}` (00_scope.md R16). -/
def Status.ofRange (r : Bool) : Status := ⟨false, r⟩

/-- `{BADOP=1, RANGE=0}` (30_encoding.md R65). -/
def Status.reserved : Status := ⟨true, false⟩

/-- `rsp`: BADOP in bit 33, RANGE in bit 32, V in bits 31:0 (30_encoding.md R66). -/
def rspWord (st : Status) (v : BitVec 32) : Rsp :=
  ((BitVec.ofBool st.badop).setWidth 34 <<< 33) ||| ((BitVec.ofBool st.range).setWidth 34 <<< 32) ||| v.setWidth 34

/-- `V` of a conversion result: RES in bits 15:0, RESG in bits 18:16, 0 above (30_encoding.md R67). -/
def resultValue (s : State) : BitVec 32 := (s.resg.setWidth 32 <<< 16) ||| s.res.setWidth 32

end Sys2Proof.Machine
end

