-- ==== Sys2Proof/Machine/Operands.lean ====
section
/-! DEFINITION. Operand forms: range tests on the whole of `T`, the slices a setter stores, the low threshold
(30_encoding.md R62, R68; 41_setters.md; 44_comparator.md R135). -/

namespace Sys2Proof.Machine

/-- `T > max`, an unsigned compare of all eight bits (30_encoding.md R62, 40_codec.md R94). -/
def outOfRange (t : Byte) (max : Nat) : Bool := decide (max < t.toNat)

/-- `T[0]`. -/
def t1 (t : Byte) : BitVec 1 := t.extractLsb' 0 1
/-- `T[1:0]`. -/
def t2 (t : Byte) : BitVec 2 := t.extractLsb' 0 2
/-- `T[2:0]`. -/
def t3 (t : Byte) : BitVec 3 := t.extractLsb' 0 3

/-- `LOW_OFFSET` (44_comparator.md R135). -/
def lowOffset : Word := 5

/-- `lowThreshold(high)`: high − 5, clamped at 0, unsigned (44_comparator.md R135). -/
def lowThreshold (high : Word) : Word := if high.ult lowOffset then 0 else high - lowOffset

end Sys2Proof.Machine
end

