-- ==== Sys2Proof/Machine/Ops.lean ====
section
/-! DEFINITION. The shared operations: bus transactions (20_memory.md R44, R45), the sequencing primitives
(00_scope.md R15), the tick (42_single_shot.md R119) and reset (70_reset_and_hazards.md R175, R177). ARCS has no
exceptions (00_scope.md R16), so there is no exception entry: an abnormal case is `refuse` or a status bit. -/

namespace Sys2Proof.Machine

/-- Device register pointers (20_memory.md R41; `PTR_CONV`, `PTR_CONFIG`, `PTR_LO`, `PTR_HI` of R10). -/
def ptrConv : Byte := 0
/-- `PTR_CONFIG`. -/
def ptrConfig : Byte := 1
/-- `PTR_LO`. -/
def ptrLo : Byte := 2
/-- `PTR_HI`. -/
def ptrHi : Byte := 3

/-- `OS_START`, the start flag as `acquire()` sets it; fixed (R10). -/
def osStart : BitVec 1 := 1

/-! ### Bus transactions -/

/-- The primitives of `WriteReg(p, v)` to the device at `a`, high byte first (20_memory.md R42, R44). -/
def writeEvents (a : BitVec 7) (p : Byte) (v : Word) : List BusEvent :=
  [.bt a, .w p, .w (v.extractLsb' 8 8), .w (v.extractLsb' 0 8), .et]

/-- The primitives of `ReadReg(p)` before its two bytes come back (20_memory.md R45). -/
def readHead (a : BitVec 7) (p : Byte) : List BusEvent := [.bt a, .w p, .et, .rq a 2]

/-- What the trace shows of the primitives `es`: those, and once a reset has cut a transaction a free value
(70_reset_and_hazards.md R177, log 10). -/
def State.shown (s : State) (es : List BusEvent) : List BusEvent :=
  if s.busCut then Config.freeTrace s.freeIdx else es

/-- Primitives go out on the bus. -/
def State.emit (s : State) (es : List BusEvent) : State :=
  { s with bus := s.bus ++ s.shown es, freeIdx := s.freeIdx + s.busCut.toNat }

/-- `MemWrite(p, 2, v)`; it changes no other state (20_memory.md R44). -/
def memWrite (p : Byte) (v : Word) (s : State) : State := s.emit (writeEvents s.addr p v)

/-- The byte the next `read()` returns: one fixed in advance, else a free value (20_memory.md R49, log 5). -/
def State.rxByte (s : State) : Byte :=
  match s.rx with
  | b :: _ => b
  | [] => Config.freeByte s.freeIdx

/-- The state once `read()` has returned. -/
def State.rxDone (s : State) : State :=
  match s.rx with
  | _ :: rest => { s with rx := rest }
  | [] => { s with freeIdx := s.freeIdx + 1 }

/-- `MemRead(p, 2)`: the value `{hi, lo}` and the state after (20_memory.md R42, R45). -/
def memRead (p : Byte) (s : State) : Word × State :=
  let hi := s.rxByte
  let lo := s.rxDone.rxByte
  (hi ++ lo, s.rxDone.rxDone.emit (readHead s.addr p ++ [.rb hi, .rb lo]))

/-! ### Sequencing primitives -/

/-- A micro-step is done: UPC names the next one (10_state.md R25). -/
def State.advance (s : State) : State := { s with upc := s.upc + 1 }

/-- A command with a micro-sequence is accepted: SEQ becomes ISSUE, UPC 0 (00_scope.md R17). -/
def issue (s : State) : State := { s with seq := .issue, upc := 0 }

/-- `WriteConfig()` (00_scope.md R15). -/
def writeConfig (s : State) : State :=
  { memWrite ptrConfig (Codec.encode s.sess) s with
    lastw := Codec.encode s.sess, lastwValid := true, resg := s.sess.gain, seq := .configWritten }

/-- `Settle()` (00_scope.md R15). -/
def settle (s : State) : State :=
  { s with
    tmr := Codec.delayFor (s.sess.rate.setWidth 8), seq := .settling, tbRestarts := s.tbRestarts + 1 }

/-- `ReadConv()` (00_scope.md R15). -/
def readConv (s : State) : State :=
  { (memRead ptrConv s).2 with res := (memRead ptrConv s).1, seq := .resultReady }

/-- `Respond(st, v)` (00_scope.md R15): the response is given, SEQ is IDLE, and CUR and UPC are unspecified
(10_state.md R25; free values, log 4). -/
def respond (st : Status) (v : BitVec 32) (s : State) : State :=
  { s with
    rsps := s.rsps ++ [rspWord st v], seq := .idle
    cur := Config.freeCur s.freeIdx, upc := Config.freeUpc s.freeIdx, freeIdx := s.freeIdx + 1 }

/-- A refusal: no state change, no bus access, `({RANGE=1}, 0)` (30_encoding.md R68). -/
def refuse (s : State) : State := respond (.ofRange true) 0 s

/-! ### Micro-sequences -/

/-- One numbered micro-step of a command's micro-sequence (00_scope.md R15, R17). -/
inductive MicroOp where
  /-- `WriteConfig()`. -/
  | writeConfig
  /-- `S[MODE] <- MODE_CONT ; WriteConfig()` (44_comparator.md R136). -/
  | contWriteConfig
  /-- `MemWrite(p, 2, v)`; SEQ unchanged (44_comparator.md R136). -/
  | writeReg (p : Byte) (v : Word)
  /-- `Settle()`. -/
  | settle
  /-- `ReadConv()`. -/
  | readConv
  /-- `Respond(st, v)`. -/
  | respond (st : Status) (v : BitVec 32)
  /-- `Respond(OK, {zext_13(0), RESG, RES})` (42_single_shot.md R116). -/
  | respondResult
  deriving DecidableEq, Repr

/-- `S[MODE] <- MODE_CONT`. -/
def setCont (s : State) : State := { s with sess := { s.sess with mode := s.cfg.modeCont } }

/-- What a micro-step does; each but a response leaves UPC at the next one (10_state.md R25). -/
def MicroOp.run (op : MicroOp) (s : State) : State :=
  match op with
  | .writeConfig => (Machine.writeConfig s).advance
  | .contWriteConfig => (Machine.writeConfig (setCont s)).advance
  | .writeReg p v => (memWrite p v s).advance
  | .settle => (Machine.settle s).advance
  | .readConv => (Machine.readConv s).advance
  | .respond st v => Machine.respond st v s
  | .respondResult => Machine.respond .ok (resultValue s) s

/-- In phase SETTLING the next micro-step is enabled only when TMR = 0 (42_single_shot.md R119). -/
abbrev State.waiting (s : State) : Prop := s.seq = .settling ∧ s.tmr ≠ 0

/-- The micro-step UPC names, once it is enabled; until then nothing happens (42_single_shot.md R119). -/
def runProgram (prog : List MicroOp) (s : State) : Host.Outcome State Fault Refusal :=
  if s.waiting then .next s
  else
    match prog[s.upc.toNat]? with
    | some op => .next (op.run s)
    | none => .fault .sequencerOutOfStep

/-- One sequencer step of a command: its accept in phase IDLE, the micro-step UPC names in every other phase
(00_scope.md R17, log 11). A command that responds as it is accepted has no program. -/
def command (accept : State → State) (prog : List MicroOp) (s : State) : Host.Outcome State Fault Refusal :=
  if s.seq = .idle then .next (accept s) else runProgram prog s

/-! ### Timebase and reset -/

/-- The tick step (42_single_shot.md R119). -/
def tick (s : State) : State := if s.waiting then { s with tmr := s.tmr - 1 } else s

/-- What a reset makes of the state it meets (70_reset_and_hazards.md R175, R176): every register as in
10_state.md R31, with CUR, UPC and LASTW unspecified (free values, log 12). What stands outside ARCS stays. -/
def applyReset (s : State) : State :=
  { s with
    addr := s.cfg.addrTable[s.addrSel.toNat]
    sess := Codec.decode s.cfg.defaultWord
    seq := .idle
    cur := Config.freeCur s.freeIdx
    upc := Config.freeUpc s.freeIdx
    tmr := 0
    res := 0
    resg := (Codec.decode s.cfg.defaultWord).gain
    lastw := Config.freeLastw s.freeIdx
    lastwValid := false
    stalled := false
    freeIdx := s.freeIdx + 1 }

/-! ### Transactions that do not run to their end -/

/-- A transaction on the bus (20_memory.md R44, R45). -/
inductive Transaction where
  /-- `WriteReg(p, v)`. -/
  | write (p : Byte) (v : Word)
  /-- `ReadReg(p)`. -/
  | read (p : Byte)
  deriving DecidableEq, Repr

/-- The transaction a micro-step performs, if it performs one, and the state it begins in: `S[MODE] <- MODE_CONT` comes
before the configuration write of a comparator start (00_scope.md R15, 44_comparator.md R136). -/
def MicroOp.transaction (op : MicroOp) (s : State) : Option (Transaction × State) :=
  match op with
  | .writeConfig => some (.write ptrConfig (Codec.encode s.sess), s)
  | .contWriteConfig => some (.write ptrConfig (Codec.encode (setCont s).sess), setCont s)
  | .writeReg p v => some (.write p v, s)
  | .readConv => some (.read ptrConv, s)
  | .settle | .respond _ _ | .respondResult => none

/-- The first `n` primitives of a transaction, all of a write's five and five of a read's six at most. -/
def Transaction.begin (n : Nat) (tr : Transaction) (s : State) : State :=
  match tr with
  | .write p v => s.emit ((writeEvents s.addr p v).take n)
  | .read p =>
    if n ≤ 4 then s.emit ((readHead s.addr p).take n) else s.rxDone.emit (readHead s.addr p ++ [.rb s.rxByte])

/-- How many primitives are on the trace when a reset meets a transaction after `n`: never its last
(70_reset_and_hazards.md R177, log 10). -/
def Transaction.cutAt (n : Nat) : Transaction → Nat
  | .write _ _ => min n 4
  | .read _ => min n 5

/-- How many primitives are on the trace when primitive `k`, counted from 0, never completes. It has been issued, but
a `read()` that never returns shows no byte (20_memory.md R43, R55; log 15). -/
def Transaction.stallAt (k : Nat) : Transaction → Nat
  | .write _ _ => min (k + 1) 5
  | .read _ => if k < 4 then k + 1 else min k 5

end Sys2Proof.Machine
end

