-- ==== Sys2Proof/Machine/Acquisition.lean ====
section
/-! DEFINITION. Single-shot acquisition (42_single_shot.md R116 to R118). -/

namespace Sys2Proof.Machine

/-- Micro-steps 1 to 4 of an acquisition (42_single_shot.md R116). -/
def acquireProgram : List MicroOp := [.writeConfig, .settle, .readConv, .respondResult]

/-- An acquisition on multiplexer code `m` is accepted (42_single_shot.md R116 to R118). -/
def acceptAcquire (m : BitVec 3) (s : State) : State :=
  issue { s with sess := { s.sess with mux := m, mode := s.cfg.modeSingle, os := osStart } }

/-- ACQ (42_single_shot.md R116): the session's own target. -/
def execAcq (s : State) : Host.Outcome State Fault Refusal :=
  command (fun s => acceptAcquire s.sess.mux s) acquireProgram s

/-- RDCH (42_single_shot.md R117): a channel index above 3 is refused with the sentinel 0. -/
def execRdch (t : Byte) (s : State) : Host.Outcome State Fault Refusal :=
  command (fun s =>
    match channelMux s.cfg t with
    | some m => acceptAcquire m s
    | none => refuse s) acquireProgram s

/-- RDDF (42_single_shot.md R118): a pair index above 3 is refused. -/
def execRddf (t : Byte) (s : State) : Host.Outcome State Fault Refusal :=
  command (fun s =>
    match Codec.diffmux s.cfg t with
    | some m => acceptAcquire m s
    | none => refuse s) acquireProgram s

end Sys2Proof.Machine
end

