-- ==== Sys2Proof/Machine/CodecCommands.lean ====
section
/-! DEFINITION. The five codec commands (40_codec.md R89 to R93): accepted, executed and answered in one step. -/

namespace Sys2Proof.Machine

/-- ENC (40_codec.md R89). -/
def execEnc (s : State) : Host.Outcome State Fault Refusal :=
  command (fun s => respond .ok ((Codec.encode s.sess).setWidth 32) s) [] s

/-- FLD (40_codec.md R90): a selector above 8 is refused. -/
def execFld (t : Byte) (a : Word) (s : State) : Host.Outcome State Fault Refusal :=
  command (fun s =>
    match Codec.field a t with
    | some v => respond .ok (v.setWidth 32) s
    | none => refuse s) [] s

/-- DLY (40_codec.md R91). -/
def execDly (t : Byte) (s : State) : Host.Outcome State Fault Refusal :=
  command (respond (.ofRange (outOfRange t 7)) ((Codec.delayFor t).setWidth 32)) [] s

/-- SCL (40_codec.md R92). -/
def execScl (t : Byte) (s : State) : Host.Outcome State Fault Refusal :=
  command (fun s => respond (.ofRange (outOfRange t 5)) ((Codec.scale128 s.cfg t).setWidth 32) s) [] s

/-- MV (40_codec.md R93). -/
def execMv (t : Byte) (a : Word) (s : State) : Host.Outcome State Fault Refusal :=
  command (fun s => respond (.ofRange (outOfRange t 5)) (Codec.toMv128 s.cfg a t) s) [] s

end Sys2Proof.Machine
end

