-- ==== Sys2Proof/Machine/Comparator.lean ====
section
/-! DEFINITION. Comparator starts and the latch clear (44_comparator.md R136 to R142). -/

namespace Sys2Proof.Machine

/-- Micro-steps 1 to 4 of a comparator start (44_comparator.md R136). -/
def comparatorProgram (low high : Word) : List MicroOp :=
  [.writeReg ptrLo low, .writeReg ptrHi high, .contWriteConfig, .respond .ok 0]

/-- The micro-steps of CLRLATCH (44_comparator.md R141). -/
def clrlatchProgram : List MicroOp := [.readConv, .respond .ok 0]

/-- A comparator start on a target, refused where there is none (44_comparator.md R136). -/
def acceptComparator (target : Option (BitVec 3)) (s : State) : State :=
  match target with
  | some m => issue { s with sess := { s.sess with mux := m } }
  | none => refuse s

/-- CMPCH (44_comparator.md R137): channel, low threshold derived. -/
def execCmpch (t : Byte) (a : Word) (s : State) : Host.Outcome State Fault Refusal :=
  command (fun s => acceptComparator (channelMux s.cfg t) s) (comparatorProgram (lowThreshold a) a) s

/-- CMPCHL (44_comparator.md R138): channel, low threshold explicit. -/
def execCmpchl (t : Byte) (a b : Word) (s : State) : Host.Outcome State Fault Refusal :=
  command (fun s => acceptComparator (channelMux s.cfg t) s) (comparatorProgram b a) s

/-- CMPDF (44_comparator.md R139): pair, low threshold derived. -/
def execCmpdf (t : Byte) (a : Word) (s : State) : Host.Outcome State Fault Refusal :=
  command (fun s => acceptComparator (Codec.diffmux s.cfg t) s) (comparatorProgram (lowThreshold a) a) s

/-- CMPDFL (44_comparator.md R140): pair, low threshold explicit. -/
def execCmpdfl (t : Byte) (a b : Word) (s : State) : Host.Outcome State Fault Refusal :=
  command (fun s => acceptComparator (Codec.diffmux s.cfg t) s) (comparatorProgram b a) s

/-- CLRLATCH (44_comparator.md R141): a conversion read whose code is not returned. -/
def execClrlatch (s : State) : Host.Outcome State Fault Refusal :=
  command issue clrlatchProgram s

end Sys2Proof.Machine
end

