-- ==== Sys2Proof/Machine/Continuous.lean ====
section
/-! DEFINITION. Continuous mode (43_continuous.md R125, R126). -/

namespace Sys2Proof.Machine

/-- The micro-steps of CONT (43_continuous.md R125). -/
def contProgram : List MicroOp := [.writeConfig, .respond .ok 0]

/-- The micro-steps of GETLAST (43_continuous.md R126). -/
def getlastProgram : List MicroOp := [.readConv, .respondResult]

/-- CONT (43_continuous.md R125): continuous mode, comparator path disabled, one configuration write. -/
def execCont (s : State) : Host.Outcome State Fault Refusal :=
  command (fun s =>
    issue { s with sess := { s.sess with mode := s.cfg.modeCont, cque := s.cfg.queDisabled } }) contProgram s

/-- GETLAST (43_continuous.md R126): a conversion read with no delay and no mode check. -/
def execGetlast (s : State) : Host.Outcome State Fault Refusal :=
  command issue getlastProgram s

end Sys2Proof.Machine
end

