-- ==== Sys2Proof/Machine/Setters.lean ====
section
/-! DEFINITION. The eight configuration setters (41_setters.md): lazy in single-shot mode, write-through in continuous
mode (R100). -/

namespace Sys2Proof.Machine

/-- The micro-steps of an accepted setter in continuous mode (41_setters.md R100). -/
def setterProgram (st : Status) : List MicroOp := [.writeConfig, .respond st 0]

/-- A setter is accepted and its field updated: single-shot mode answers at once, continuous mode writes through. The
test is made after the update (41_setters.md R100). -/
def acceptSetter (st : Status) (update : Session → Session) (s : State) : State :=
  let s' := { s with sess := update s.sess }
  if s'.sess.mode = s.cfg.modeSingle then respond st 0 s' else issue s'

/-- A setter that refuses `T > max` (41_setters.md R100, R109). -/
def refusingSetter (t : Byte) (max : Nat) (update : Session → Session) (s : State) :
    Host.Outcome State Fault Refusal :=
  command (fun s => if outOfRange t max then refuse s else acceptSetter .ok update s) (setterProgram .ok) s

/-- SETCH (41_setters.md R101): a channel index above 3 falls back to channel 0 and sets RANGE. -/
def execSetch (t : Byte) (s : State) : Host.Outcome State Fault Refusal :=
  command (fun s => acceptSetter (.ofRange (outOfRange t 3)) (fun S => { S with mux := Codec.chmux s.cfg t }) s)
    (setterProgram (.ofRange (outOfRange t 3))) s

/-- SETDF (41_setters.md R102): a pair index above 3, where `diffmux` is not defined, is refused. -/
def execSetdf (t : Byte) (s : State) : Host.Outcome State Fault Refusal :=
  command (fun s =>
    match Codec.diffmux s.cfg t with
    | some m => acceptSetter .ok (fun S => { S with mux := m }) s
    | none => refuse s) (setterProgram .ok) s

/-- SETGAIN (41_setters.md R103): codes 6 and 7 are stored. -/
def execSetgain (t : Byte) (s : State) : Host.Outcome State Fault Refusal :=
  refusingSetter t 7 (fun S => { S with gain := t3 t }) s

/-- SETRATE (41_setters.md R104). -/
def execSetrate (t : Byte) (s : State) : Host.Outcome State Fault Refusal :=
  refusingSetter t 7 (fun S => { S with rate := t3 t }) s

/-- SETCMODE (41_setters.md R105). -/
def execSetcmode (t : Byte) (s : State) : Host.Outcome State Fault Refusal :=
  refusingSetter t 1 (fun S => { S with cmode := t1 t }) s

/-- SETCPOL (41_setters.md R106). -/
def execSetcpol (t : Byte) (s : State) : Host.Outcome State Fault Refusal :=
  refusingSetter t 1 (fun S => { S with cpol := t1 t }) s

/-- SETCLAT (41_setters.md R107). -/
def execSetclat (t : Byte) (s : State) : Host.Outcome State Fault Refusal :=
  refusingSetter t 1 (fun S => { S with clat := t1 t }) s

/-- SETCQUE (41_setters.md R108). -/
def execSetcque (t : Byte) (s : State) : Host.Outcome State Fault Refusal :=
  refusingSetter t 3 (fun S => { S with cque := t2 t }) s

end Sys2Proof.Machine
end

