-- ==== Sys2Proof/Machine/Dispatch.lean ====
section
/-! DEFINITION. The meaning of each instruction, one arm per constructor: one sequencer step of that command. -/

namespace Sys2Proof.Machine

def exec (i : Instr) (s : State) : Host.Outcome State Fault Refusal :=
  match i with
  -- codec commands, 40_codec.md
  | .enc => Sys2Proof.Machine.execEnc s
  | .fld t a => Sys2Proof.Machine.execFld t a s
  | .dly t => Sys2Proof.Machine.execDly t s
  | .scl t => Sys2Proof.Machine.execScl t s
  | .mv t a => Sys2Proof.Machine.execMv t a s
  -- setters, 41_setters.md
  | .setch t => Sys2Proof.Machine.execSetch t s
  | .setdf t => Sys2Proof.Machine.execSetdf t s
  | .setgain t => Sys2Proof.Machine.execSetgain t s
  | .setrate t => Sys2Proof.Machine.execSetrate t s
  | .setcmode t => Sys2Proof.Machine.execSetcmode t s
  | .setcpol t => Sys2Proof.Machine.execSetcpol t s
  | .setclat t => Sys2Proof.Machine.execSetclat t s
  | .setcque t => Sys2Proof.Machine.execSetcque t s
  -- single-shot acquisition, 42_single_shot.md
  | .acq => Sys2Proof.Machine.execAcq s
  | .rdch t => Sys2Proof.Machine.execRdch t s
  | .rddf t => Sys2Proof.Machine.execRddf t s
  -- continuous mode, 43_continuous.md
  | .cont => Sys2Proof.Machine.execCont s
  | .getlast => Sys2Proof.Machine.execGetlast s
  -- comparator, 44_comparator.md
  | .cmpch t a => Sys2Proof.Machine.execCmpch t a s
  | .cmpchl t a b => Sys2Proof.Machine.execCmpchl t a b s
  | .cmpdf t a => Sys2Proof.Machine.execCmpdf t a s
  | .cmpdfl t a b => Sys2Proof.Machine.execCmpdfl t a b s
  | .clrlatch => Sys2Proof.Machine.execClrlatch s

end Sys2Proof.Machine
end

