-- ==== Sys2Proof/Machine/Sequencer.lean ====
section
/-! DEFINITION. The sequencer around the meanings (accepting a command, going on with the one in flight) and the moves
of the other agents (00_scope.md R8, R9, R17). -/

namespace Sys2Proof.Machine

/-- `cmd_ready` (00_scope.md R9, 10_state.md R24). -/
def State.cmdReady (s : State) : Bool := decide (s.seq = .idle)

/-- `cmd_valid`: the host offers a command (00_scope.md R9). -/
def State.cmdValid (s : State) : Bool := !s.cmds.isEmpty

/-- The code of a phase (10_state.md R24). -/
def Phase.code : Phase → BitVec 3
  | .idle => 0
  | .issue => 1
  | .configWritten => 2
  | .settling => 3
  | .resultReady => 4

/-- A reserved opcode: no state change, no bus access, `({BADOP=1, RANGE=0}, 0)` (30_encoding.md R65). -/
def execReserved (s : State) : State := respond .reserved 0 s

/-- The offered word is taken from the port and latched in CUR, UPC is 0 (10_state.md R25, 20_memory.md R54). -/
def latch (w : Cmd) (rest : List Cmd) (s : State) : State := { s with cmds := rest, cur := w, upc := 0 }

/-- One step of the sequencer. In IDLE it accepts the offered command, or waits for one (00_scope.md R9). In every
other phase it goes on with the command in CUR (10_state.md R25), or waits for a primitive that never completes
(20_memory.md R55). -/
def sequencerStep (s : State) : Host.Outcome State Fault Refusal :=
  if s.seq = .idle then
    match s.cmds with
    | [] => .next s
    | w :: rest =>
      match decode w with
      | .instr i => exec i (latch w rest s)
      | .reserved _ => .next (execReserved (latch w rest s))
  else if s.stalled then .next s
  else
    match decode s.cur with
    | .instr i => exec i s
    | .reserved _ => .fault .sequencerOutOfStep

/-- The micro-sequence of each command; empty for those that respond as they are accepted (40_codec.md to
44_comparator.md). -/
def program : Instr → List MicroOp
  | .enc | .fld _ _ | .dly _ | .scl _ | .mv _ _ => []
  | .setch t => setterProgram (.ofRange (outOfRange t 3))
  | .setdf _ | .setgain _ | .setrate _ | .setcmode _ | .setcpol _ | .setclat _ | .setcque _ => setterProgram .ok
  | .acq | .rdch _ | .rddf _ => acquireProgram
  | .cont => contProgram
  | .getlast => getlastProgram
  | .cmpch _ a | .cmpdf _ a => comparatorProgram (lowThreshold a) a
  | .cmpchl _ a b | .cmpdfl _ a b => comparatorProgram b a
  | .clrlatch => clrlatchProgram

/-- The transaction that the sequencer's next micro-step performs, and the state it begins in; none in IDLE, while the
settling wait lasts, and while an earlier one is stalled. -/
def pendingTransaction (s : State) : Option (Transaction × State) :=
  if s.seq = .idle ∨ s.waiting ∨ s.stalled then none
  else
    match decode s.cur with
    | .reserved _ => none
    | .instr i => (program i)[s.upc.toNat]?.bind (fun op => op.transaction s)

/-- A reset meets the sequencer's next step after `n` of its primitives, or a stalled transaction: a transaction of which
something has been issued is cut (70_reset_and_hazards.md R177, log 10). -/
def cutPending (n : Nat) (s : State) : State :=
  if s.stalled then { s with busCut := true }
  else
    match pendingTransaction s with
    | none => s
    | some (tr, u) => if n = 0 then s else { tr.begin (tr.cutAt n) u with busCut := true }

/-- Primitive `k` of the sequencer's next transaction never completes: the transaction is begun and ARCS waits. Nothing
happens where the next step is no transaction (20_memory.md R55, log 15). -/
def stall (k : Nat) (s : State) : State :=
  match pendingTransaction s with
  | none => s
  | some (tr, u) => { tr.begin (tr.stallAt k) u with stalled := true }

/-- One move of one agent. A reset wins over the sequencer's step (70_reset_and_hazards.md R175). -/
def applyMove (m : Move) (s : State) : Host.Outcome State Fault Refusal :=
  match m with
  | .sequencer => sequencerStep s
  | .tick => .next (tick s)
  | .reset n => .next (applyReset (cutPending n s))
  | .stall k => .next (stall k s)
  | .strap level => .next { s with addrSel := level }
  | .host w => .next { s with cmds := s.cmds ++ [w] }

/-- The next move: the scheduled one; with none scheduled, a tick while the sequencer waits for the timer, else the
sequencer's (log 6). -/
def nextMove (s : State) : Move :=
  match s.sched with
  | m :: _ => m
  | [] => if s.waiting then .tick else .sequencer

/-- The machine's step: the next move is taken off the schedule and made. -/
def stepMove (s : State) : Host.Outcome State Fault Refusal :=
  applyMove (nextMove s) { s with sched := s.sched.tail }

end Sys2Proof.Machine
end

