-- ==== Sys2Proof/Machine/Step.lean ====
section
/-! DEFINITION. One step of the machine, and how the host places a command for it. -/

namespace Sys2Proof.Machine

/-- One step: one move of one agent (00_scope.md R8, R17). -/
def step (s : State) : Host.Outcome State Fault Refusal := stepMove s

/-- `s` with the command word of `nbits` bits offered on the port, the sequencer idle and next to move: what the
host's presenting the command takes (00_scope.md R9, log 7). -/
def State.withFetchWord (s : State) (nbits w : Nat) : State :=
  { s with
    seq := .idle
    stalled := false
    cmds := BitVec.ofNat 48 (w % 2 ^ nbits) :: s.cmds
    sched := .sequencer :: s.sched }

end Sys2Proof.Machine
end

