-- ==== Sys2Proof/Safety.lean ====
section
/-! DEFINITION. What counts as a safe run of ARCS, and the terms claims are stated in: a command's path through the
phases (42_single_shot.md R115), the invariant of the machine (10_state.md R33), and, beside the meanings and written
apart from them, what each command as a whole does: its accesses (20_memory.md R56), the session it leaves, its answer
(30_encoding.md R67, R68) and how many steps it takes. -/

namespace Sys2Proof.Machine

/-- The phases a command passes through after its accept, one per micro-step (42_single_shot.md R115). -/
def path : Instr → List Phase
  | .enc | .fld _ _ | .dly _ | .scl _ | .mv _ _ => []
  | .setch _ | .setdf _ | .setgain _ | .setrate _ => [.issue, .configWritten]
  | .setcmode _ | .setcpol _ | .setclat _ | .setcque _ => [.issue, .configWritten]
  | .acq | .rdch _ | .rddf _ => [.issue, .configWritten, .settling, .resultReady]
  | .cont => [.issue, .configWritten]
  | .getlast | .clrlatch => [.issue, .resultReady]
  | .cmpch _ _ | .cmpchl _ _ _ | .cmpdf _ _ | .cmpdfl _ _ _ => [.issue, .issue, .issue, .configWritten]

/-- SEQ, CUR and UPC agree: IDLE, or the phase a command's path has at UPC. -/
def State.InStep (s : State) : Prop :=
  s.seq = .idle ∨ ∃ i, decode s.cur = .instr i ∧ (path i)[s.upc.toNat]? = some s.seq

/-- The timer runs only in SETTLING and never holds more than the delay of the session's rate (10_state.md R26). -/
def State.TimerBounded (s : State) : Prop :=
  (s.seq ≠ .settling → s.tmr = 0) ∧ s.tmr.toNat ≤ (Codec.delayFor (s.sess.rate.setWidth 8)).toNat

/-- The last word sent is the packed session (10_state.md R33). -/
def State.Synced (s : State) : Prop := s.lastwValid = true ∧ s.lastw = Codec.encode s.sess

/-- Coherence in continuous mode (10_state.md R33, phase IDLE), made inductive: it also holds while a command that
has just written the configuration, or one that changes no session field, is in flight. -/
def State.SyncedWhereDue (s : State) : Prop :=
  (s.seq = .configWritten ∨ s.seq = .settling → s.Synced) ∧
  (s.seq = .idle ∨ s.seq = .resultReady → s.sess.mode = s.cfg.modeCont → s.Synced) ∧
  (s.seq = .issue → decode s.cur = .instr .getlast ∨ decode s.cur = .instr .clrlatch →
    s.sess.mode = s.cfg.modeCont → s.Synced)

/-- A stalled transaction is one that a command in flight has begun, with no settling wait left (20_memory.md R55). -/
def State.StallsInFlight (s : State) : Prop := s.stalled = true → s.seq ≠ .idle ∧ s.tmr = 0

/-- The invariant of the machine: allowed parameters, SEQ in step with CUR and UPC, the timer bounded, the session
coherent with the last word sent wherever 10_state.md R33 asks it, and a stall only in flight. -/
def State.Inv (s : State) : Prop :=
  s.cfg.ok = true ∧ s.InStep ∧ s.TimerBounded ∧ s.SyncedWhereDue ∧ s.StallsInFlight

/-- `bus` is the trace of `s` once the primitives `es` have gone out. Where a reset has cut a transaction the trace only
grows, by anything (70_reset_and_hazards.md R177). -/
def State.Shows (s : State) (es bus : List BusEvent) : Prop :=
  (s.busCut = false → bus = s.bus ++ es) ∧ ∃ fs, bus = s.bus ++ fs

/-- `t` is `s` with the response `r` given and phase IDLE; CUR, UPC (and the model's counter) are unspecified and
everything else is unchanged (00_scope.md R15, 10_state.md R25). -/
def Answers (s : State) (r : Rsp) (t : State) : Prop :=
  t = { s with
    seq := .idle, rsps := s.rsps ++ [r], cur := t.cur, upc := t.upc, freeIdx := t.freeIdx }

/-- `t` is `s` after `WriteConfig()`: the five primitives of the register write, LASTW, RESG, SEQ, and UPC one on
(00_scope.md R15, 20_memory.md R44). -/
def WritesConfig (s t : State) : Prop :=
  t = { s with
    lastw := Codec.encode s.sess, lastwValid := true, resg := s.sess.gain
    seq := .configWritten, upc := s.upc + 1, bus := t.bus, freeIdx := t.freeIdx } ∧
  s.Shows [.bt s.addr, .w 1, .w ((Codec.encode s.sess).extractLsb' 8 8),
    .w ((Codec.encode s.sess).extractLsb' 0 8), .et] t.bus

/-- `t` is `s` after a threshold write, which changes nothing but the bus trace and UPC (20_memory.md R44,
44_comparator.md R136). -/
def WritesThreshold (p : Byte) (v : Word) (s t : State) : Prop :=
  t = { s with upc := s.upc + 1, bus := t.bus, freeIdx := t.freeIdx } ∧
  s.Shows [.bt s.addr, .w p, .w (v.extractLsb' 8 8), .w (v.extractLsb' 0 8), .et] t.bus

/-- `t` is `s` after `Settle()` (00_scope.md R15). -/
def Settles (s t : State) : Prop :=
  t = { s with
    tmr := Codec.delayFor (s.sess.rate.setWidth 8), seq := .settling
    tbRestarts := s.tbRestarts + 1, upc := s.upc + 1 }

/-- `t` is `s` after `ReadConv()`: some bytes `hi`, `lo` came back, those of `rx` as far as it has them
(00_scope.md R15, 20_memory.md R45, R49). -/
def ReadsConversion (s t : State) : Prop :=
  ∃ hi lo : Byte,
    t = { s with
      res := hi ++ lo, seq := .resultReady, upc := s.upc + 1
      rx := s.rx.drop 2, bus := t.bus, freeIdx := t.freeIdx } ∧
    s.Shows [.bt s.addr, .w 0, .et, .rq s.addr 2, .rb hi, .rb lo] t.bus ∧
    (∀ b, s.rx[0]? = some b → hi = b) ∧ (∀ b, s.rx[1]? = some b → lo = b)

/-- A setter is accepted in IDLE: the field is updated; single-shot mode answers at once with no bus access, continuous
mode goes to ISSUE (41_setters.md R100). -/
def SetterAccepts (i : Instr) (range : Bool) (update : Config → Session → Session) : Prop :=
  ∀ s : State, s.seq = .idle →
    ((update s.cfg s.sess).mode = s.cfg.modeSingle →
      ∃ t, exec i s = .next t ∧
        Answers { s with sess := update s.cfg s.sess } (rspWord (.ofRange range) 0) t) ∧
    ((update s.cfg s.sess).mode ≠ s.cfg.modeSingle →
      exec i s = .next { s with sess := update s.cfg s.sess, seq := .issue, upc := 0 })

/-- A comparator start: refused without a target, else MUX set, low, high and configuration written in that order,
MODE set before the last, and answered (44_comparator.md R136). -/
def ComparatorStart (i : Instr) (t : Byte) (target : Config → Option (BitVec 3)) (low high : Word) : Prop :=
  ∀ s : State,
    (s.seq = .idle → 3 < t.toNat → ∃ u, exec i s = .next u ∧ Answers s (rspWord (.ofRange true) 0) u) ∧
    (s.seq = .idle → ∀ m, target s.cfg = some m →
      exec i s = .next { s with sess := { s.sess with mux := m }, seq := .issue, upc := 0 }) ∧
    (s.seq = .issue → s.upc = 0 → ∃ u, exec i s = .next u ∧ WritesThreshold 2 low s u) ∧
    (s.seq = .issue → s.upc = 1 → ∃ u, exec i s = .next u ∧ WritesThreshold 3 high s u) ∧
    (s.seq = .issue → s.upc = 2 → ∃ u, exec i s = .next u ∧
      WritesConfig { s with sess := { s.sess with mode := s.cfg.modeCont } } u) ∧
    (s.seq = .configWritten → s.upc = 3 →
      ∃ u, exec i s = .next u ∧ Answers s (rspWord .ok 0) u)

/-- The instruction whose step the sequencer takes next: the offered one in IDLE, the one in CUR in every other phase. -/
def State.acting (s : State) : Option Instr :=
  let w? := if s.seq = .idle then s.cmds.head? else some s.cur
  match w? with
  | some w => match decode w with
    | .instr i => some i
    | .reserved _ => none
  | none => none

/-- The next move is a reset. -/
def State.resetNext (s : State) : Bool :=
  match nextMove s with
  | .reset _ => true
  | .sequencer | .tick | .stall _ | .strap _ | .host _ => false

/-- The same event, or two bytes a `read()` returned. -/
def SameButReadByte : BusEvent → BusEvent → Prop
  | .rb _, .rb _ => True
  | e, e' => e = e'

/-- `s` and `s'` differ at most in what bytes returned by reads reach: the bytes still to come, RES, the model's
counter, CUR and UPC in IDLE (unspecified there), the values of responses but not their status bits, and the bytes of
the trace's `RB` events, or anything of the trace where a reset has cut it (20_memory.md R49, 42_single_shot.md R121). -/
def State.SameButForReads (s s' : State) : Prop :=
  s' = { s with
    rx := s'.rx, res := s'.res, freeIdx := s'.freeIdx, cur := s'.cur, upc := s'.upc, rsps := s'.rsps
    bus := s'.bus } ∧
  (s.seq ≠ .idle → s'.cur = s.cur ∧ s'.upc = s.upc) ∧
  List.Forall₂ (fun a a' : Rsp => a.extractLsb' 32 2 = a'.extractLsb' 32 2) s.rsps s'.rsps ∧
  (s.busCut = false → List.Forall₂ SameButReadByte s.bus s'.bus)

/-- The commands whose response carries a conversion code (30_encoding.md R67). -/
def returnsCode : Instr → Bool
  | .acq | .rdch _ | .rddf _ | .getlast => true
  | .enc | .fld _ _ | .dly _ | .scl _ | .mv _ _ | .cont => false
  | .setch _ | .setdf _ | .setgain _ | .setrate _ => false
  | .setcmode _ | .setcpol _ | .setclat _ | .setcque _ => false
  | .cmpch _ _ | .cmpchl _ _ _ | .cmpdf _ _ | .cmpdfl _ _ _ | .clrlatch => false

/-- The eight setters (41_setters.md). -/
def isSetter : Instr → Bool
  | .setch _ | .setdf _ | .setgain _ | .setrate _ => true
  | .setcmode _ | .setcpol _ | .setclat _ | .setcque _ => true
  | .enc | .fld _ _ | .dly _ | .scl _ | .mv _ _ => false
  | .acq | .rdch _ | .rddf _ | .cont | .getlast => false
  | .cmpch _ _ | .cmpchl _ _ _ | .cmpdf _ _ | .cmpdfl _ _ _ | .clrlatch => false

/-- The commands that fall back on an operand out of range; the others refuse it (30_encoding.md R68). -/
def fallsBack : Instr → Bool
  | .dly _ | .scl _ | .mv _ _ | .setch _ => true
  | .enc | .fld _ _ | .setdf _ | .setgain _ | .setrate _ => false
  | .setcmode _ | .setcpol _ | .setclat _ | .setcque _ => false
  | .acq | .rdch _ | .rddf _ | .cont | .getlast => false
  | .cmpch _ _ | .cmpchl _ _ _ | .cmpdf _ _ | .cmpdfl _ _ _ | .clrlatch => false

/-- The command is refused: its operand is out of range and it has no fallback (30_encoding.md R68). -/
def refused (i : Instr) : Bool := !i.wellFormed && !fallsBack i

/-- RANGE of a command's response: a fallback or a refusal occurred (60_exceptions.md R150, cases 1 to 8). -/
def rangeOf (i : Instr) : Bool := !i.wellFormed

/-- The session a command leaves behind (41_setters.md, 42_single_shot.md, 43_continuous.md, 44_comparator.md). -/
def sessionAfter (c : Config) (i : Instr) (S : Session) : Session :=
  if refused i then S
  else
    match i with
    | .enc | .fld _ _ | .dly _ | .scl _ | .mv _ _ | .getlast | .clrlatch => S
    | .setch t => { S with mux := Codec.chmux c t }
    | .setdf t => { S with mux := (c.muxDiff[t.toNat]?).getD 0 }
    | .setgain t => { S with gain := t.setWidth 3 }
    | .setrate t => { S with rate := t.setWidth 3 }
    | .setcmode t => { S with cmode := t.setWidth 1 }
    | .setcpol t => { S with cpol := t.setWidth 1 }
    | .setclat t => { S with clat := t.setWidth 1 }
    | .setcque t => { S with cque := t.setWidth 2 }
    | .acq => { S with mode := c.modeSingle, os := 1 }
    | .rdch t => { S with mux := (c.muxCh[t.toNat]?).getD 0, mode := c.modeSingle, os := 1 }
    | .rddf t => { S with mux := (c.muxDiff[t.toNat]?).getD 0, mode := c.modeSingle, os := 1 }
    | .cont => { S with mode := c.modeCont, cque := c.queDisabled }
    | .cmpch t _ | .cmpchl t _ _ => { S with mux := (c.muxCh[t.toNat]?).getD 0, mode := c.modeCont }
    | .cmpdf t _ | .cmpdfl t _ _ => { S with mux := (c.muxDiff[t.toNat]?).getD 0, mode := c.modeCont }

/-- One access to the device's register file (20_memory.md R56). -/
inductive Access where
  /-- `WriteReg(p, v)`. -/
  | write (p : Byte) (v : Word)
  /-- `ReadReg(0)`, answered with the bytes `hi`, `lo`. -/
  | readConv (hi lo : Byte)
  deriving DecidableEq, Repr

/-- The primitives of an access to the device at `a` (20_memory.md R44, R45). -/
def Access.events (a : BitVec 7) : Access → List BusEvent
  | .write p v => [.bt a, .w p, .w (v.extractLsb' 8 8), .w (v.extractLsb' 0 8), .et]
  | .readConv hi lo => [.bt a, .w 0, .et, .rq a 2, .rb hi, .rb lo]

/-- The accesses a command performs, in bus order, when reads are answered `hi`, `lo` (20_memory.md R56). -/
def accesses (c : Config) (i : Instr) (S : Session) (hi lo : Byte) : List Access :=
  let word := Codec.encode (sessionAfter c i S)
  if refused i then []
  else
    match i with
    | .enc | .fld _ _ | .dly _ | .scl _ | .mv _ _ => []
    | .setch _ | .setdf _ | .setgain _ | .setrate _ | .setcmode _ | .setcpol _ | .setclat _ | .setcque _ =>
      if S.mode = c.modeSingle then [] else [.write 1 word]
    | .acq | .rdch _ | .rddf _ => [.write 1 word, .readConv hi lo]
    | .cont => [.write 1 word]
    | .getlast | .clrlatch => [.readConv hi lo]
    | .cmpch _ a | .cmpdf _ a => [.write 2 (lowThreshold a), .write 3 a, .write 1 word]
    | .cmpchl _ a b | .cmpdfl _ a b => [.write 2 b, .write 3 a, .write 1 word]

/-- `V` of a conversion result: the code in bits 15:0, the gain tag in bits 18:16 (30_encoding.md R67). -/
def resultWord (resg : BitVec 3) (res : Word) : BitVec 32 := (resg.setWidth 32 <<< 16) ||| res.setWidth 32

/-- The value `V` a command answers with, `res` and `resg` being RES and RESG as it ends (30_encoding.md R67). -/
def valueOf (c : Config) (i : Instr) (S : Session) (res : Word) (resg : BitVec 3) : BitVec 32 :=
  if refused i then 0
  else
    match i with
    | .enc => (Codec.encode S).setWidth 32
    | .fld t a => ((Codec.field a t).getD 0).setWidth 32
    | .dly t => (Codec.delayFor t).setWidth 32
    | .scl t => (Codec.scale128 c t).setWidth 32
    | .mv t a => Codec.toMv128 c a t
    | .acq | .rdch _ | .rddf _ | .getlast => resultWord resg res
    | .setch _ | .setdf _ | .setgain _ | .setrate _ | .setcmode _ | .setcpol _ | .setclat _ | .setcque _ => 0
    | .cont | .cmpch _ _ | .cmpchl _ _ _ | .cmpdf _ _ | .cmpdfl _ _ _ | .clrlatch => 0

/-- How many steps a command takes from its accept to its response when every wait is met by ticks: one for the
accept, one for each micro-step, one for each tick of a settling wait (00_scope.md R17, 42_single_shot.md R115, R119). -/
def stepsOf (c : Config) (i : Instr) (S : Session) : Nat :=
  if refused i then 1
  else
    match i with
    | .enc | .fld _ _ | .dly _ | .scl _ | .mv _ _ => 1
    | .setch _ | .setdf _ | .setgain _ | .setrate _ | .setcmode _ | .setcpol _ | .setclat _ | .setcque _ =>
      if S.mode = c.modeSingle then 1 else 3
    | .acq | .rdch _ | .rddf _ => 5 + (Codec.delayFor (S.rate.setWidth 8)).toNat
    | .cont | .getlast | .clrlatch => 3
    | .cmpch _ _ | .cmpchl _ _ _ | .cmpdf _ _ | .cmpdfl _ _ _ => 5

/-- The command writes the configuration register (20_memory.md R56). -/
def hasConfigWrite (c : Config) (i : Instr) (S : Session) : Bool :=
  (accesses c i S 0 0).any (fun a => match a with | .write p _ => p == 1 | .readConv _ _ => false)

/-- The command reads the conversion register (20_memory.md R56). -/
def readsConversion (i : Instr) : Bool :=
  match i with
  | .acq | .getlast | .clrlatch => true
  | .rdch _ | .rddf _ => !refused i
  | .enc | .fld _ _ | .dly _ | .scl _ | .mv _ _ | .cont => false
  | .setch _ | .setdf _ | .setgain _ | .setrate _ | .setcmode _ | .setcpol _ | .setclat _ | .setcque _ => false
  | .cmpch _ _ | .cmpchl _ _ _ | .cmpdf _ _ | .cmpdfl _ _ _ => false

/-- The phase changes 10_state.md R24 allows a step (columns "entered by" and "left by", for the micro-sequences of
42_single_shot.md R115, none of which writes the configuration twice; reset enters IDLE from any phase). -/
def phaseStepAllowed (m : Move) (p q : Phase) : Bool :=
  match m with
  | .reset _ => q == .idle
  | .tick | .stall _ | .strap _ | .host _ => p == q
  | .sequencer =>
    match p, q with
    | .idle, .idle | .idle, .issue => true
    | .issue, .issue | .issue, .configWritten | .issue, .resultReady => true
    | .configWritten, .settling | .configWritten, .idle => true
    | .settling, .settling | .settling, .resultReady => true
    | .resultReady, .idle => true
    | _, _ => false

end Sys2Proof.Machine
end

