-- ==== Sys2Proof/Certificates/Slice0/Obligations.lean ====
section
/-! DEFINITION. The statements for the provers. Each docstring says what is stated and the rules of spec/ it is from;
OBLIGATIONS.json says the same in full. `Answers`, `WritesConfig`, `WritesThreshold`, `Settles`, `ReadsConversion` are
explicit next states, and `State.Shows` is what a transaction adds to the trace (Sys2Proof/Safety.lean). -/

open Sys2Proof Sys2Proof.Machine

/-- For every instruction, with every value of every operand it carries, decoding its encoded word gives that
instruction. (30_encoding.md R60, 30_encoding.md R64, 30_encoding.md R70, 30_encoding.md R72) -/
def Obligations.DecodeOfEncodeIsTheInstruction : Prop :=
  ∀ i : Instr, decode (encode i) = .instr i

/-- For every 48-bit word that decodes to an instruction, encoding that instruction gives the word with every bit
its format does not read cleared; so the decoder neither drops nor invents a bit of a read field.
(30_encoding.md R60, 30_encoding.md R61, 30_encoding.md R63, 30_encoding.md R70) -/
def Obligations.EncodeOfDecodeKeepsTheReadFields : Prop :=
  ∀ (w : Cmd) (i : Instr), decode w = .instr i → encode i = w &&& i.readMask

/-- A word decodes to Reserved exactly when its opcode byte is none of the 23 of the opcode map, and it is then
named by that byte; every other word decodes to an instruction of that opcode, and no two rows share one (the 23
opcodes are distinct). (R72) -/
def Obligations.ReservedOpcodesAreTheUnlistedOnes : Prop :=
  (∀ w : Cmd, decode w = .reserved (w.extractLsb' 40 8) ∨
      ∃ i : Instr, decode w = .instr i ∧ i.opcode = w.extractLsb' 40 8) ∧
  (∀ (w : Cmd) (op : Byte), decode w = .reserved op ↔
      op = w.extractLsb' 40 8 ∧
        op ∉ ([0x01, 0x02, 0x03, 0x04, 0x05, 0x10, 0x11, 0x12, 0x13, 0x14, 0x15, 0x16, 0x17, 0x20, 0x21, 0x22,
          0x28, 0x29, 0x30, 0x31, 0x32, 0x33, 0x38] : List Byte)) ∧
  ([0x01, 0x02, 0x03, 0x04, 0x05, 0x10, 0x11, 0x12, 0x13, 0x14, 0x15, 0x16, 0x17, 0x20, 0x21, 0x22,
    0x28, 0x29, 0x30, 0x31, 0x32, 0x33, 0x38] : List Byte).Nodup

/-- One word of each family, and three reserved ones, written out from the command table and the test vectors,
decode as the spec says. (30_encoding.md R64, 30_encoding.md R65, 95_test_vectors.md 2.6) -/
def Obligations.WrittenOutWordsDecode : Prop :=
  decode 0x01FFFFFFFFFF = .instr .enc ∧
  decode 0x0207C1830000 = .instr (.fld 7 0xC183) ∧
  decode 0x1303ABCD1234 = .instr (.setrate 3) ∧
  decode 0x2000FFFF0000 = .instr .acq ∧
  decode 0x280000000000 = .instr .cont ∧
  decode 0x310003E80384 = .instr (.cmpchl 0 1000 900) ∧
  decode 0x000000000000 = .reserved 0x00 ∧
  decode 0x06FFFFFFFFFF = .reserved 0x06 ∧
  decode 0x230000000000 = .reserved 0x23

/-- SETRATE 3 assembles to 0x130300000000, MV 2, -16 to 0x0502FFF00000, CMPCHL 0, 1000, 900 to 0x310003E80384, and
ACQCH c and ACQDF p expand to SETCH c then ACQ and SETDF p then ACQ. That a line comes split into its mnemonic
and its numbers, and that a T out of 0..255 makes no line, are the model's choice (log 17, DESIGN CHOICE), not
R70's. (30_encoding.md R70, 30_encoding.md R71, 95_test_vectors.md 2.1, 95_test_vectors.md 2.5) -/
def Obligations.AssemblerLinesEncode : Prop :=
  ((assembleLine "SETRATE" [3]).map (List.map encode) = some [0x130300000000]) ∧
  ((assembleLine "MV" [2, -16]).map (List.map encode) = some [0x0502FFF00000]) ∧
  ((assembleLine "CMPCHL" [0, 1000, 900]).map (List.map encode) = some [0x310003E80384]) ∧
  assembleLine "SETRATE" [256] = none ∧
  (∀ n : Int, 0 ≤ n → n ≤ 255 →
    assembleLine "ACQCH" [n] = some [.setch (BitVec.ofInt 8 n), .acq] ∧
    assembleLine "ACQDF" [n] = some [.setdf (BitVec.ofInt 8 n), .acq])

/-- For every record of nine fields decode(encode(S)) = S, and for every 16-bit word encode(decode(w)) = w; the
words that decode to an invalid record are exactly those with w[11:9] in {6, 7}. (R32) -/
def Obligations.PackingIsABijection : Prop :=
  (∀ S : Session, Codec.decode (Codec.encode S) = S) ∧
  (∀ w : Word, Codec.encode (Codec.decode w) = w) ∧
  (∀ w : Word, (Codec.decode w).valid = false ↔ (w.extractLsb' 9 3 = 6 ∨ w.extractLsb' 9 3 = 7))

/-- encode(S), defined by shifting and OR-ing, equals {OS, MUX, GAIN, MODE, RATE, CMODE, CPOL, CLAT, CQUE}, and,
since the ranges are disjoint, the arithmetic sum of the shifted fields. (R81) -/
def Obligations.EncodeIsTheConcatenationAndTheSum : Prop :=
  ∀ S : Session,
    Codec.encode S =
      (S.os ++ S.mux ++ S.gain ++ S.mode ++ S.rate ++ S.cmode ++ S.cpol ++ S.clat ++ S.cque :
        BitVec (1 + 3 + 3 + 1 + 3 + 1 + 1 + 1 + 2)) ∧
    Codec.encode S =
      S.cque.setWidth 16 ||| (S.clat.setWidth 16 <<< 2) ||| (S.cpol.setWidth 16 <<< 3) |||
        (S.cmode.setWidth 16 <<< 4) ||| (S.rate.setWidth 16 <<< 5) ||| (S.mode.setWidth 16 <<< 8) |||
        (S.gain.setWidth 16 <<< 9) ||| (S.mux.setWidth 16 <<< 12) ||| (S.os.setWidth 16 <<< 15) ∧
    (Codec.encode S).toNat =
      S.cque.toNat + 4 * S.clat.toNat + 8 * S.cpol.toNat + 16 * S.cmode.toNat + 32 * S.rate.toNat +
        256 * S.mode.toNat + 512 * S.gain.toNat + 4096 * S.mux.toNat + 32768 * S.os.toNat

/-- Outside a field's in-place mask, encode does not depend on that field, for each of the nine masks; and two
sessions with the same word are equal. (40_codec.md R80, 40_codec.md R84) -/
def Obligations.OneFieldMovesOnlyItsOwnBits : Prop :=
  (∀ S S' : Session, Codec.encode S = Codec.encode S' → S = S') ∧
  ∀ (S : Session) (x3 : BitVec 3) (x2 : BitVec 2) (x1 : BitVec 1),
    Codec.encode { S with cque := x2 } &&& 0xFFFC = Codec.encode S &&& 0xFFFC ∧
    Codec.encode { S with clat := x1 } &&& 0xFFFB = Codec.encode S &&& 0xFFFB ∧
    Codec.encode { S with cpol := x1 } &&& 0xFFF7 = Codec.encode S &&& 0xFFF7 ∧
    Codec.encode { S with cmode := x1 } &&& 0xFFEF = Codec.encode S &&& 0xFFEF ∧
    Codec.encode { S with rate := x3 } &&& 0xFF1F = Codec.encode S &&& 0xFF1F ∧
    Codec.encode { S with mode := x1 } &&& 0xFEFF = Codec.encode S &&& 0xFEFF ∧
    Codec.encode { S with gain := x3 } &&& 0xF1FF = Codec.encode S &&& 0xF1FF ∧
    Codec.encode { S with mux := x3 } &&& 0x8FFF = Codec.encode S &&& 0x8FFF ∧
    Codec.encode { S with os := x1 } &&& 0x7FFF = Codec.encode S &&& 0x7FFF

/-- For each selector f in 0..8, field(w, f) is w shifted right by the field's lo and masked, and equals the
corresponding field of decode(w). (R83) -/
def Obligations.FieldReadsTheDecodedRecord : Prop :=
  ∀ w : Word,
    (Codec.field w 0 = some (((w >>> 0) &&& 3).setWidth 3) ∧
      Codec.field w 0 = some ((Codec.decode w).cque.setWidth 3)) ∧
    (Codec.field w 1 = some (((w >>> 2) &&& 1).setWidth 3) ∧
      Codec.field w 1 = some ((Codec.decode w).clat.setWidth 3)) ∧
    (Codec.field w 2 = some (((w >>> 3) &&& 1).setWidth 3) ∧
      Codec.field w 2 = some ((Codec.decode w).cpol.setWidth 3)) ∧
    (Codec.field w 3 = some (((w >>> 4) &&& 1).setWidth 3) ∧
      Codec.field w 3 = some ((Codec.decode w).cmode.setWidth 3)) ∧
    (Codec.field w 4 = some (((w >>> 5) &&& 7).setWidth 3) ∧
      Codec.field w 4 = some ((Codec.decode w).rate.setWidth 3)) ∧
    (Codec.field w 5 = some (((w >>> 8) &&& 1).setWidth 3) ∧
      Codec.field w 5 = some ((Codec.decode w).mode.setWidth 3)) ∧
    (Codec.field w 6 = some (((w >>> 9) &&& 7).setWidth 3) ∧
      Codec.field w 6 = some ((Codec.decode w).gain.setWidth 3)) ∧
    (Codec.field w 7 = some (((w >>> 12) &&& 7).setWidth 3) ∧
      Codec.field w 7 = some ((Codec.decode w).mux.setWidth 3)) ∧
    (Codec.field w 8 = some (((w >>> 15) &&& 1).setWidth 3) ∧
      Codec.field w 8 = some ((Codec.decode w).os.setWidth 3))

/-- For r in 0..7 delayFor(r) is 126, 64, 33, 17, 9, 5, 4, 3, and for r in 8..255 it is 126. (R85) -/
def Obligations.DelayTable : Prop :=
  (∀ r : Byte, r.toNat ≤ 7 →
      some (Codec.delayFor r).toNat = [126, 64, 33, 17, 9, 5, 4, 3][r.toNat]?) ∧
  (∀ r : Byte, 7 < r.toNat → Codec.delayFor r = 126)

/-- For g in 0..5 scale128(g) is the parameter SCALE128[g], for g in 6..255 it is 0, whatever the parameter; with
the default parameter the six are 24, 16, 8, 4, 2, 1. (R86) -/
def Obligations.ScaleTable : Prop :=
  (∀ (c : Config) (g : Byte), g.toNat ≤ 5 → some (Codec.scale128 c g) = c.scale128[g.toNat]?) ∧
  (∀ (c : Config) (g : Byte), 5 < g.toNat → Codec.scale128 c g = 0) ∧
  (∀ g : Byte, g.toNat ≤ 5 →
    some (Codec.scale128 Config.standard g).toNat = [24, 16, 8, 4, 2, 1][g.toNat]?)

/-- With the default scales, the signed value of toMv128(c, g) is the signed code times scale128(g), its magnitude
is at most 786432, and an unrecognised g gives 0 for every c whatever the scales are. (R87) -/
def Obligations.MillivoltProductIsExact : Prop :=
  (∀ (code : Word) (g : Byte),
      (Codec.toMv128 Config.standard code g).toInt =
        code.toInt * ((Codec.scale128 Config.standard g).toNat : Int) ∧
      |(Codec.toMv128 Config.standard code g).toInt| ≤ 786432) ∧
  (∀ (c : Config) (code : Word) (g : Byte), 5 < g.toNat → Codec.toMv128 c code g = 0)

/-- chmux(c) is MUX_CH[c] for c up to 3 and MUX_CH[0] above; diffmux(p) is MUX_DIFF[p] for p up to 3 and not defined
above; with the default parameters they are 4 + c and p. (R88) -/
def Obligations.TargetToMultiplexerCode : Prop :=
  (∀ (c : Config) (t : Byte) (m : BitVec 3), c.muxCh[t.toNat]? = some m → Codec.chmux c t = m) ∧
  (∀ (c : Config) (t : Byte), 3 < t.toNat → some (Codec.chmux c t) = c.muxCh[0]?) ∧
  (∀ (c : Config) (t : Byte), Codec.diffmux c t = c.muxDiff[t.toNat]?) ∧
  (∀ (c : Config) (t : Byte), (Codec.diffmux c t).isSome ↔ t.toNat ≤ 3) ∧
  (∀ t : Byte, t.toNat ≤ 3 →
    (Codec.chmux Config.standard t).toNat = 4 + t.toNat ∧
    (Codec.diffmux Config.standard t).map BitVec.toNat = some t.toNat)

/-- Read as natural numbers, lowThreshold(high) is high - 5 where high is at least 5, and 0 below; it never wraps.
(R135) -/
def Obligations.LowThresholdIsClampedSubtraction : Prop :=
  ∀ high : Word,
    (high.toNat < 5 → lowThreshold high = 0) ∧
    (5 ≤ high.toNat → (lowThreshold high).toNat + 5 = high.toNat)

/-- The three fields of a response word are the status bits and the value; and a step gives at most one response, in
which BADOP and RANGE are not both 1. (30_encoding.md R66, 10_state.md R29) -/
def Obligations.ResponseWordLayout : Prop :=
  (∀ (st : Status) (v : BitVec 32),
      (rspWord st v).extractLsb' 33 1 = BitVec.ofBool st.badop ∧
      (rspWord st v).extractLsb' 32 1 = BitVec.ofBool st.range ∧
      (rspWord st v).extractLsb' 0 32 = v) ∧
  (∀ (s t : State), s.resetNext = false → step s = .next t →
    t.rsps = s.rsps ∨ ∃ (st : Status) (v : BitVec 32),
      t.rsps = s.rsps ++ [rspWord st v] ∧ (st.badop && st.range) = false)

/-- In RESULT_READY, with their last micro-step next, ACQ, RDCH, RDDF and GETLAST each answer one response whose
status bits are 0 and whose value has V[15:0] = RES, V[18:16] = RESG and V[31:19] = 0, with no sign extension;
that value is resultValue of the state. (30_encoding.md R67, 42_single_shot.md R116, 43_continuous.md R126) -/
def Obligations.ResultValueLayout : Prop :=
  ∀ (i : Instr) (s : State), s.seq = .resultReady →
    ((i = .acq ∨ ∃ c, i = .rdch c ∨ i = .rddf c) ∧ s.upc = 3 ∨ i = .getlast ∧ s.upc = 1) →
    ∃ (t : State) (a : Rsp), exec i s = .next t ∧ t.rsps = s.rsps ++ [a] ∧
      a.extractLsb' 0 16 = s.res ∧ a.extractLsb' 16 3 = s.resg ∧ a.extractLsb' 19 13 = 0 ∧
      a.extractLsb' 32 2 = 0 ∧ a.extractLsb' 0 32 = resultValue s

/-- In IDLE, ENC answers (OK, zext(encode(S))); everything but the response (and CUR and UPC, unspecified in IDLE)
is unchanged, in any operating mode. Opcode 0x01 decodes to ENC. After reset the value is DEFAULT_WORD. (R89) -/
def Obligations.EncAnswersThePackedSession : Prop :=
  (∀ w : Cmd, w.extractLsb' 40 8 = 0x01#8 → decode w = .instr .enc) ∧
  (∀ s : State, s.seq = .idle →
    ∃ t, exec .enc s = .next t ∧ Answers s (rspWord .ok ((Codec.encode s.sess).setWidth 32)) t) ∧
  (∀ c : Config, Codec.encode (State.initial c).sess = c.defaultWord)

/-- In IDLE, FLD with T up to 8 answers (OK, field(A, T)), the field of rule R80's table; with T above 8 it answers
({RANGE=1}, 0); nothing else changes. Opcode 0x02 decodes to FLD with T and A. (R90) -/
def Obligations.FldAnswersOneField : Prop :=
  (∀ w : Cmd, w.extractLsb' 40 8 = 0x02#8 →
      decode w = .instr (.fld (w.extractLsb' 32 8) (w.extractLsb' 16 16))) ∧
  (∀ (s : State) (f : Byte) (a : Word), s.seq = .idle →
    (f.toNat ≤ 8 → ∃ t v, exec (.fld f a) s = .next t ∧ Codec.field a f = some v ∧
      Answers s (rspWord .ok (v.setWidth 32)) t) ∧
    (8 < f.toNat → ∃ t, exec (.fld f a) s = .next t ∧ Answers s (rspWord (.ofRange true) 0) t))

/-- In IDLE, DLY answers ({RANGE = (T > 7)}, zext(delayFor(T))); nothing else changes, the timer and the session
included. Opcode 0x03 decodes to DLY with T. (R91) -/
def Obligations.DlyAnswersTheDelay : Prop :=
  (∀ w : Cmd, w.extractLsb' 40 8 = 0x03#8 → decode w = .instr (.dly (w.extractLsb' 32 8))) ∧
  (∀ (s : State) (r : Byte), s.seq = .idle →
    ∃ t, exec (.dly r) s = .next t ∧
      Answers s (rspWord (.ofRange (decide (7 < r.toNat))) ((Codec.delayFor r).setWidth 32)) t)

/-- In IDLE, SCL answers ({RANGE = (T > 5)}, zext(scale128(T))); nothing else changes. Opcode 0x04 decodes to SCL
with T. (R92) -/
def Obligations.SclAnswersTheScale : Prop :=
  (∀ w : Cmd, w.extractLsb' 40 8 = 0x04#8 → decode w = .instr (.scl (w.extractLsb' 32 8))) ∧
  (∀ (s : State) (g : Byte), s.seq = .idle →
    ∃ t, exec (.scl g) s = .next t ∧
      Answers s (rspWord (.ofRange (decide (5 < g.toNat))) ((Codec.scale128 s.cfg g).setWidth 32)) t)

/-- In IDLE, MV answers ({RANGE = (T > 5)}, toMv128(A, T)); nothing else changes. Opcode 0x05 decodes to MV with T
and A. (R93) -/
def Obligations.MvAnswersTheProduct : Prop :=
  (∀ w : Cmd, w.extractLsb' 40 8 = 0x05#8 →
      decode w = .instr (.mv (w.extractLsb' 32 8) (w.extractLsb' 16 16))) ∧
  (∀ (s : State) (g : Byte) (a : Word), s.seq = .idle →
    ∃ t, exec (.mv g a) s = .next t ∧
      Answers s (rspWord (.ofRange (decide (5 < g.toNat))) (Codec.toMv128 s.cfg a g)) t)

/-- For each of the eight setters and each T in its valid range (and SETCH beyond it, with its channel-0 fallback
and RANGE), accepted in IDLE: the one field takes the value the rule gives, every other field and register is
unchanged, and the command answers at once with no bus access in single-shot mode, or enters ISSUE in continuous
mode, then writes the whole configuration word (WriteConfig) and then answers (st, 0) with RANGE only for a
SETCH fallback. T out of range is refused by the other seven: one answer ({RANGE=1}, 0), nothing written in
either mode. Opcodes 0x10 to 0x17 decode to them. (R100, R109, R101, R102, R103, R104, R105, R106, R107, R108) -/
def Obligations.SettersFollowTheirTemplate : Prop :=
  (∀ t : Byte, SetterAccepts (.setch t) (decide (3 < t.toNat))
      (fun c S => { S with mux := (c.muxCh[t.toNat]?).getD c.muxCh[0] })) ∧
  (∀ t : Byte, t.toNat ≤ 3 → SetterAccepts (.setdf t) false
      (fun c S => { S with mux := (c.muxDiff[t.toNat]?).getD 0 })) ∧
  (∀ t : Byte, t.toNat ≤ 7 → SetterAccepts (.setgain t) false (fun _ S => { S with gain := t.setWidth 3 })) ∧
  (∀ t : Byte, t.toNat ≤ 7 → SetterAccepts (.setrate t) false (fun _ S => { S with rate := t.setWidth 3 })) ∧
  (∀ t : Byte, t.toNat ≤ 1 → SetterAccepts (.setcmode t) false (fun _ S => { S with cmode := t.setWidth 1 })) ∧
  (∀ t : Byte, t.toNat ≤ 1 → SetterAccepts (.setcpol t) false (fun _ S => { S with cpol := t.setWidth 1 })) ∧
  (∀ t : Byte, t.toNat ≤ 1 → SetterAccepts (.setclat t) false (fun _ S => { S with clat := t.setWidth 1 })) ∧
  (∀ t : Byte, t.toNat ≤ 3 → SetterAccepts (.setcque t) false (fun _ S => { S with cque := t.setWidth 2 })) ∧
  (∀ (i : Instr) (s : State), isSetter i = true →
    (s.seq = .issue → s.upc = 0 → ∃ t, exec i s = .next t ∧ WritesConfig s t) ∧
    (s.seq = .configWritten → s.upc = 1 →
      ∃ t, exec i s = .next t ∧ Answers s (rspWord (.ofRange (fallsBack i && rangeOf i)) 0) t)) ∧
  (∀ (s : State) (i : Instr), s.seq = .idle → isSetter i = true → refused i = true →
    ∃ t, exec i s = .next t ∧ Answers s (rspWord (.ofRange true) 0) t) ∧
  (∀ w : Cmd,
    (w.extractLsb' 40 8 = 0x10#8 → decode w = .instr (.setch (w.extractLsb' 32 8))) ∧
    (w.extractLsb' 40 8 = 0x11#8 → decode w = .instr (.setdf (w.extractLsb' 32 8))) ∧
    (w.extractLsb' 40 8 = 0x12#8 → decode w = .instr (.setgain (w.extractLsb' 32 8))) ∧
    (w.extractLsb' 40 8 = 0x13#8 → decode w = .instr (.setrate (w.extractLsb' 32 8))) ∧
    (w.extractLsb' 40 8 = 0x14#8 → decode w = .instr (.setcmode (w.extractLsb' 32 8))) ∧
    (w.extractLsb' 40 8 = 0x15#8 → decode w = .instr (.setcpol (w.extractLsb' 32 8))) ∧
    (w.extractLsb' 40 8 = 0x16#8 → decode w = .instr (.setclat (w.extractLsb' 32 8))) ∧
    (w.extractLsb' 40 8 = 0x17#8 → decode w = .instr (.setcque (w.extractLsb' 32 8))))

/-- Every command whose operand is out of its valid range and that has no fallback (FLD, SETDF, SETGAIN, SETRATE,
SETCMODE, SETCPOL, SETCLAT, SETCQUE, RDCH, RDDF and the comparator starts) answers ({RANGE=1}, 0) in the step
that accepts it, in either operating mode, with no bus access and no state change. (30_encoding.md R68,
41_setters.md R109, 60_exceptions.md R150, 60_exceptions.md R158) -/
def Obligations.RefusedCommandsChangeNothing : Prop :=
  ∀ (i : Instr) (s : State), s.seq = .idle → refused i = true →
    ∃ t, exec i s = .next t ∧ Answers s (rspWord (.ofRange true) 0) t

/-- Which T is valid for each command, and which commands fall back on an invalid one, written out from the table of
rule R68; A and B have no invalid values. (30_encoding.md R68) -/
def Obligations.ValidRangesAreThoseOfTheTable : Prop :=
  ∀ (t : Byte) (a b : Word),
    ((Instr.fld t a).WellFormed ↔ t.toNat ≤ 8) ∧ ((Instr.dly t).WellFormed ↔ t.toNat ≤ 7) ∧
    ((Instr.scl t).WellFormed ↔ t.toNat ≤ 5) ∧ ((Instr.mv t a).WellFormed ↔ t.toNat ≤ 5) ∧
    ((Instr.setch t).WellFormed ↔ t.toNat ≤ 3) ∧ ((Instr.setdf t).WellFormed ↔ t.toNat ≤ 3) ∧
    ((Instr.setgain t).WellFormed ↔ t.toNat ≤ 7) ∧ ((Instr.setrate t).WellFormed ↔ t.toNat ≤ 7) ∧
    ((Instr.setcmode t).WellFormed ↔ t.toNat ≤ 1) ∧ ((Instr.setcpol t).WellFormed ↔ t.toNat ≤ 1) ∧
    ((Instr.setclat t).WellFormed ↔ t.toNat ≤ 1) ∧ ((Instr.setcque t).WellFormed ↔ t.toNat ≤ 3) ∧
    ((Instr.rdch t).WellFormed ↔ t.toNat ≤ 3) ∧ ((Instr.rddf t).WellFormed ↔ t.toNat ≤ 3) ∧
    ((Instr.cmpch t a).WellFormed ↔ t.toNat ≤ 3) ∧ ((Instr.cmpchl t a b).WellFormed ↔ t.toNat ≤ 3) ∧
    ((Instr.cmpdf t a).WellFormed ↔ t.toNat ≤ 3) ∧ ((Instr.cmpdfl t a b).WellFormed ↔ t.toNat ≤ 3) ∧
    (fallsBack (.dly t) ∧ fallsBack (.scl t) ∧ fallsBack (.mv t a) ∧ fallsBack (.setch t)) ∧
    (∀ i : Instr, fallsBack i = true →
      ∃ t' a', i = .dly t' ∨ i = .scl t' ∨ i = .mv t' a' ∨ i = .setch t')

/-- In IDLE ACQ sets MODE and OS and enters ISSUE; then WriteConfig, Settle (TMR gets delayFor(S[RATE])), ReadConv
once TMR is 0 (until then nothing happens), and the answer (OK, {0, RESG, RES}); each step leaves everything
else unchanged. Opcode 0x20 decodes to ACQ. (R116) -/
def Obligations.AcqMicroSequence : Prop :=
  (∀ w : Cmd, w.extractLsb' 40 8 = 0x20#8 → decode w = .instr .acq) ∧
  ∀ s : State,
    (s.seq = .idle → exec .acq s =
      .next { s with
        sess := { s.sess with mode := s.cfg.modeSingle, os := 1 }, seq := .issue, upc := 0 }) ∧
    (s.seq = .issue → s.upc = 0 → ∃ t, exec .acq s = .next t ∧ WritesConfig s t) ∧
    (s.seq = .configWritten → s.upc = 1 → ∃ t, exec .acq s = .next t ∧ Settles s t) ∧
    (s.seq = .settling → s.tmr ≠ 0 → exec .acq s = .next s) ∧
    (s.seq = .settling → s.upc = 2 → s.tmr = 0 → ∃ t, exec .acq s = .next t ∧ ReadsConversion s t) ∧
    (s.seq = .resultReady → s.upc = 3 →
      ∃ t, exec .acq s = .next t ∧
        Answers s (rspWord .ok (resultWord s.resg s.res)) t)

/-- In IDLE, RDCH with T up to 3 sets MUX to MUX_CH[T], MODE to single-shot and OS, and enters ISSUE with no bus
access of its own; with T above 3 it answers ({RANGE=1}, 0) and changes nothing. In every other phase its step
is ACQ's. Opcode 0x21 decodes to RDCH with T. (R117) -/
def Obligations.RdchAcceptsAChannel : Prop :=
  (∀ w : Cmd, w.extractLsb' 40 8 = 0x21#8 → decode w = .instr (.rdch (w.extractLsb' 32 8))) ∧
  ∀ (s : State) (c : Byte),
    (s.seq = .idle → ∀ m, s.cfg.muxCh[c.toNat]? = some m → exec (.rdch c) s =
      .next { s with
        sess := { s.sess with mux := m, mode := s.cfg.modeSingle, os := 1 }, seq := .issue, upc := 0 }) ∧
    (s.seq = .idle → 3 < c.toNat →
      ∃ t, exec (.rdch c) s = .next t ∧ Answers s (rspWord (.ofRange true) 0) t) ∧
    (s.seq ≠ .idle → exec (.rdch c) s = exec .acq s)

/-- In IDLE, RDDF with T up to 3 sets MUX to MUX_DIFF[T], MODE to single-shot and OS, and enters ISSUE with no bus
access of its own; with T above 3 it answers ({RANGE=1}, 0) and changes nothing. In every other phase its step
is ACQ's. Opcode 0x22 decodes to RDDF with T. (R118) -/
def Obligations.RddfAcceptsAPair : Prop :=
  (∀ w : Cmd, w.extractLsb' 40 8 = 0x22#8 → decode w = .instr (.rddf (w.extractLsb' 32 8))) ∧
  ∀ (s : State) (p : Byte),
    (s.seq = .idle → ∀ m, s.cfg.muxDiff[p.toNat]? = some m → exec (.rddf p) s =
      .next { s with
        sess := { s.sess with mux := m, mode := s.cfg.modeSingle, os := 1 }, seq := .issue, upc := 0 }) ∧
    (s.seq = .idle → 3 < p.toNat →
      ∃ t, exec (.rddf p) s = .next t ∧ Answers s (rspWord (.ofRange true) 0) t) ∧
    (s.seq ≠ .idle → exec (.rddf p) s = exec .acq s)

/-- When the next move is a tick: in SETTLING with TMR above 0 TMR is one less and nothing else changes; otherwise
nothing changes. And, whatever moves next, no step of any command is enabled in SETTLING while TMR is not 0: a
sequencer's move of the command in flight then changes nothing but the schedule. (42_single_shot.md R119,
00_scope.md R17) -/
def Obligations.TickCountsOnlyInSettling : Prop :=
  (∀ (s : State) (r : List Move), s.sched = .tick :: r →
    (s.seq = .settling → s.tmr ≠ 0 → step s = .next { s with sched := r, tmr := s.tmr - 1 }) ∧
    (¬ (s.seq = .settling ∧ s.tmr ≠ 0) → step s = .next { s with sched := r })) ∧
  (∀ (s : State) (i : Instr), s.seq = .settling → s.tmr ≠ 0 →
    exec i s = .next s ∧
    (nextMove s = .sequencer → decode s.cur = .instr i → step s = .next { s with sched := s.sched.tail }))

/-- In SETTLING with a command in flight, any schedule of ticks and sequencer moves holding fewer ticks than TMR
leaves the machine in SETTLING with TMR less by exactly their number, nothing read and nothing else changed:
exactly TMR ticks are consumed before the read. (42_single_shot.md R119, 00_scope.md R17) -/
def Obligations.SettlingOutlastsEveryShorterRunOfTicks : Prop :=
  ∀ (es r : List Move) (s : State), s.seq = .settling → (∃ i, decode s.cur = .instr i) →
    s.sched = es ++ r → (∀ m ∈ es, m = .tick ∨ m = .sequencer) → es.count .tick < s.tmr.toNat →
    Host.Core.run Sys2Proof.core es.length s =
      .next { s with sched := r, tmr := s.tmr - BitVec.ofNat 7 (es.count .tick) }

/-- From IDLE with an ACQ, RDCH or RDDF offered first, whatever schedule of sequencer, tick, strap, host and stall
moves follows, none of them a reset (the moves are log 6's, the stall log 15's): the run goes on, and the first
response given, if one is given, has V[18:16] = S[GAIN] as it was at accept and V[15:0] the code read; before it
exactly the configuration word with that gain was written and that code read on the bus. (R120) -/
def Obligations.AcquisitionGainTagIsTheGainAtAccept : Prop :=
  ∀ (es r : List Move) (s : State) (w : Cmd) (rest : List Cmd) (i : Instr), s.seq = .idle → s.cmds = w :: rest →
    decode w = .instr i → (i = .acq ∨ ∃ c, c.toNat ≤ 3 ∧ (i = .rdch c ∨ i = .rddf c)) →
    s.sched = es ++ r → (∀ m ∈ es, ∀ n, m ≠ .reset n) →
    ∃ t, Host.Core.run Sys2Proof.core es.length s = .next t ∧ t.sched = r ∧
      ∀ a, t.rsps[s.rsps.length]? = some a →
        ∃ hi lo : Byte, a = rspWord .ok (resultWord s.sess.gain (hi ++ lo)) ∧
          (Codec.decode (Codec.encode (sessionAfter s.cfg i s.sess))).gain = s.sess.gain ∧
          (s.busCut = false →
            (Access.events s.addr (.write 1 (Codec.encode (sessionAfter s.cfg i s.sess))) ++
              Access.events s.addr (.readConv hi lo)) <+: t.bus.drop s.bus.length)

/-- In IDLE CONT sets MODE to MODE_CONT and CQUE to QUE_DISABLED, every other field as it was, and enters ISSUE;
then WriteConfig; then the answer (OK, 0). Opcode 0x28 decodes to CONT. (R125) -/
def Obligations.ContMicroSequence : Prop :=
  (∀ w : Cmd, w.extractLsb' 40 8 = 0x28#8 → decode w = .instr .cont) ∧
  ∀ s : State,
    (s.seq = .idle → exec .cont s =
      .next { s with
        sess := { s.sess with mode := s.cfg.modeCont, cque := s.cfg.queDisabled }, seq := .issue, upc := 0 }) ∧
    (s.seq = .issue → s.upc = 0 → ∃ t, exec .cont s = .next t ∧ WritesConfig s t) ∧
    (s.seq = .configWritten → s.upc = 1 →
      ∃ t, exec .cont s = .next t ∧ Answers s (rspWord .ok 0) t)

/-- In IDLE GETLAST enters ISSUE, changing no session field and not the timer, in any operating mode; then ReadConv
with no wait; then the answer (OK, {0, RESG, RES}). Opcode 0x29 decodes to GETLAST. (R126) -/
def Obligations.GetlastMicroSequence : Prop :=
  (∀ w : Cmd, w.extractLsb' 40 8 = 0x29#8 → decode w = .instr .getlast) ∧
  ∀ s : State,
    (s.seq = .idle → exec .getlast s = .next { s with seq := .issue, upc := 0 }) ∧
    (s.seq = .issue → s.upc = 0 → ∃ t, exec .getlast s = .next t ∧ ReadsConversion s t) ∧
    (s.seq = .resultReady → s.upc = 1 →
      ∃ t, exec .getlast s = .next t ∧
        Answers s (rspWord .ok (resultWord s.resg s.res)) t)

/-- For CMPCH, CMPCHL, CMPDF, CMPDFL: T above 3 is refused; else MUX takes MUX_CH[T] or MUX_DIFF[T]; then register 2
gets the low threshold (lowThreshold(A), or B as given), register 3 gets A, MODE becomes MODE_CONT and the
configuration is written, and the answer is (OK, 0); each step leaves everything else unchanged. Opcodes 0x30 to
0x33 decode to them. (R136, R137, R138, R139, R140) -/
def Obligations.ComparatorStartMicroSequences : Prop :=
  (∀ (t : Byte) (a b : Word),
      ComparatorStart (.cmpch t a) t (fun c => c.muxCh[t.toNat]?) (lowThreshold a) a ∧
      ComparatorStart (.cmpchl t a b) t (fun c => c.muxCh[t.toNat]?) b a ∧
      ComparatorStart (.cmpdf t a) t (fun c => c.muxDiff[t.toNat]?) (lowThreshold a) a ∧
      ComparatorStart (.cmpdfl t a b) t (fun c => c.muxDiff[t.toNat]?) b a) ∧
  (∀ w : Cmd,
    (w.extractLsb' 40 8 = 0x30#8 →
      decode w = .instr (.cmpch (w.extractLsb' 32 8) (w.extractLsb' 16 16))) ∧
    (w.extractLsb' 40 8 = 0x31#8 →
      decode w = .instr (.cmpchl (w.extractLsb' 32 8) (w.extractLsb' 16 16) (w.extractLsb' 0 16))) ∧
    (w.extractLsb' 40 8 = 0x32#8 →
      decode w = .instr (.cmpdf (w.extractLsb' 32 8) (w.extractLsb' 16 16))) ∧
    (w.extractLsb' 40 8 = 0x33#8 →
      decode w = .instr (.cmpdfl (w.extractLsb' 32 8) (w.extractLsb' 16 16) (w.extractLsb' 0 16))))

/-- In IDLE CLRLATCH enters ISSUE, changing no session field; then ReadConv, exactly GETLAST's step; then the answer
(OK, 0): the code read is not returned. Opcode 0x38 decodes to CLRLATCH. (R141) -/
def Obligations.ClrlatchMicroSequence : Prop :=
  (∀ w : Cmd, w.extractLsb' 40 8 = 0x38#8 → decode w = .instr .clrlatch) ∧
  ∀ s : State,
    (s.seq = .idle → exec .clrlatch s = .next { s with seq := .issue, upc := 0 }) ∧
    (s.seq = .issue → s.upc = 0 →
      exec .clrlatch s = exec .getlast s ∧ ∃ t, exec .clrlatch s = .next t ∧ ReadsConversion s t) ∧
    (s.seq = .resultReady → s.upc = 1 →
      ∃ t, exec .clrlatch s = .next t ∧ Answers s (rspWord .ok 0) t)

/-- When the sequencer moves next: in IDLE with a command offered it is taken from the port, latched in CUR with UPC
0, and step is exec of the decoded instruction there; a reserved opcode answers ({BADOP=1, RANGE=0}, 0) in the
same step and changes nothing; with none offered nothing changes; in every other phase step is exec of the
instruction decoded from CUR, unless a primitive has stalled (log 15), and then nothing changes. In every case
the move leaves the schedule. (00_scope.md R9, 00_scope.md R17, 10_state.md R25, 30_encoding.md R65,
20_memory.md R55) -/
def Obligations.StepRunsTheDecodedCommand : Prop :=
  ∀ s : State, nextMove s = .sequencer →
    (∀ w rest i, s.seq = .idle → s.cmds = w :: rest → decode w = .instr i →
      step s = exec i { s with sched := s.sched.tail, cmds := rest, cur := w, upc := 0 }) ∧
    (∀ w rest op, s.seq = .idle → s.cmds = w :: rest → decode w = .reserved op →
      ∃ t, step s = .next t ∧
        Answers { s with sched := s.sched.tail, cmds := rest } (rspWord .reserved 0) t) ∧
    (s.seq = .idle → s.cmds = [] → step s = .next { s with sched := s.sched.tail }) ∧
    (∀ i, s.seq ≠ .idle → s.stalled = false → decode s.cur = .instr i →
      step s = exec i { s with sched := s.sched.tail }) ∧
    (s.seq ≠ .idle → s.stalled = true → step s = .next { s with sched := s.sched.tail })

/-- The model's own order of the agents' moves (log 6): the head of the schedule; without one, a tick in SETTLING
with TMR not 0, otherwise the sequencer. Strap and host moves change only their port. (00_scope.md R8,
10_state.md R35) -/
def Obligations.MovesAreTakenInScheduleOrder : Prop :=
  (∀ (s : State) (m : Move) (r : List Move), s.sched = m :: r → step s = applyMove m { s with sched := r }) ∧
  (∀ s : State, s.sched = [] → s.seq = .settling → s.tmr ≠ 0 → step s = .next { s with tmr := s.tmr - 1 }) ∧
  (∀ s : State, s.sched = [] → ¬ (s.seq = .settling ∧ s.tmr ≠ 0) → step s = sequencerStep s) ∧
  (∀ (s : State) (l : BitVec 2), applyMove (.strap l) s = .next { s with addrSel := l }) ∧
  (∀ (s : State) (w : Cmd), applyMove (.host w) s = .next { s with cmds := s.cmds ++ [w] })

/-- For every state and every 48-bit table word that decodes to an instruction, step of the state with that word
placed is exec of that instruction, with the word latched in CUR and the commands offered before still offered.
What withFetchWord does (the word ahead of those offered, SEQ in IDLE with nothing stalled, the sequencer to
move first) is the model's choice (log 7, DESIGN CHOICE), which stands for the host presenting the word; the
rules cited say only how an offered word is accepted. (00_scope.md R9, 10_state.md R25, 30_encoding.md R72) -/
def Obligations.PlacedWordRunsNext : Prop :=
  ∀ (s : State) (w : Nat) (i : Instr), decodeTableWord 48 w = some i →
    step (s.withFetchWord 48 w) =
      exec i { s with seq := .idle, stalled := false, cur := BitVec.ofNat 48 w, upc := 0 }

/-- From every state in which SEQ, CUR and UPC agree, a step's change of SEQ is one the columns 'entered by' and
'left by' of the phase table allow: IDLE to ISSUE, ISSUE to itself, CONFIG_WRITTEN or RESULT_READY,
CONFIG_WRITTEN to SETTLING or IDLE, SETTLING to RESULT_READY, RESULT_READY to IDLE; a tick, a stall, the strap
and the host change no phase, a reset gives IDLE. While a primitive is stalled (log 15) the sequencer may leave
the phase as it is. (10_state.md R24, 42_single_shot.md R115, 20_memory.md R55) -/
def Obligations.PhaseChangesAreThoseOfTheTable : Prop :=
  ∀ s t : State, s.InStep → step s = .next t →
    phaseStepAllowed (nextMove s) s.seq t.seq = true ∨ (s.stalled = true ∧ t.seq = s.seq)

/-- For every step: the parameters are unchanged; ADDR is unchanged, except that a reset loads ADDR_TABLE[addr_sel];
the strap level is changed by a strap move and nothing else. That the parameters are held in State and no step
changes them is the model's choice (log 1, DESIGN CHOICE), and so are the moves that change the strap (log 6,
DESIGN CHOICE). (10_state.md R21, 00_scope.md R10, 10_state.md R35) -/
def Obligations.AddressAndParametersChangeOnlyAtReset : Prop :=
  ∀ s t : State, step s = .next t →
    t.cfg = s.cfg ∧
    (s.resetNext = false → t.addr = s.addr) ∧
    (s.resetNext = true → some t.addr = s.cfg.addrTable[s.addrSel.toNat]?) ∧
    ((∀ l, nextMove s ≠ .strap l) → t.addrSel = s.addrSel) ∧
    (State.reset.addr = 0x48 ∧ State.reset.cfg.addrTable.toList = [0x48, 0x49, 0x4A, 0x4B])

/-- For every step that is not a reset: if a field changed, the command acting in that step is one of those the
column 'written by' of the session table names for the field; so MODE and OS are changed by no setter.
(10_state.md R20) -/
def Obligations.FieldsAreWrittenOnlyByTheirCommands : Prop :=
  ∀ s t : State, s.resetNext = false → step s = .next t →
    (t.sess.cque ≠ s.sess.cque → ∃ x, s.acting = some (.setcque x) ∨ s.acting = some .cont) ∧
    (t.sess.clat ≠ s.sess.clat → ∃ x, s.acting = some (.setclat x)) ∧
    (t.sess.cpol ≠ s.sess.cpol → ∃ x, s.acting = some (.setcpol x)) ∧
    (t.sess.cmode ≠ s.sess.cmode → ∃ x, s.acting = some (.setcmode x)) ∧
    (t.sess.rate ≠ s.sess.rate → ∃ x, s.acting = some (.setrate x)) ∧
    (t.sess.gain ≠ s.sess.gain → ∃ x, s.acting = some (.setgain x)) ∧
    (t.sess.mode ≠ s.sess.mode → ∃ x a b, s.acting = some .acq ∨ s.acting = some (.rdch x) ∨
      s.acting = some (.rddf x) ∨ s.acting = some .cont ∨ s.acting = some (.cmpch x a) ∨
      s.acting = some (.cmpchl x a b) ∨ s.acting = some (.cmpdf x a) ∨ s.acting = some (.cmpdfl x a b)) ∧
    (t.sess.mux ≠ s.sess.mux → ∃ x a b, s.acting = some (.setch x) ∨ s.acting = some (.setdf x) ∨
      s.acting = some (.rdch x) ∨ s.acting = some (.rddf x) ∨ s.acting = some (.cmpch x a) ∨
      s.acting = some (.cmpchl x a b) ∨ s.acting = some (.cmpdf x a) ∨ s.acting = some (.cmpdfl x a b)) ∧
    (t.sess.os ≠ s.sess.os → ∃ x, s.acting = some .acq ∨ s.acting = some (.rdch x) ∨
      s.acting = some (.rddf x))

/-- For every step that is not a reset, a start flag that is 1 stays 1. (42_single_shot.md R116, 43_continuous.md
R125) -/
def Obligations.StartFlagIsClearedOnlyByReset : Prop :=
  ∀ s t : State, s.resetNext = false → step s = .next t → s.sess.os = 1 → t.sess.os = 1

/-- If a step changes MODE away from MODE_CONT, it is a reset, or the accept in IDLE of an ACQ, RDCH or RDDF. (R129) -/
def Obligations.ContinuousModeIsLeftOnlyByAcquisitionOrReset : Prop :=
  ∀ s t : State, step s = .next t → s.sess.mode = s.cfg.modeCont → t.sess.mode ≠ s.cfg.modeCont →
    s.resetNext = true ∨
      (s.seq = .idle ∧ ∃ x, s.acting = some .acq ∨ s.acting = some (.rdch x) ∨ s.acting = some (.rddf x))

/-- For every step that is not a reset: LASTW, LASTW_VALID and RESG are unchanged, or the step wrote the
configuration word encode(S), now in LASTW, and RESG is S[GAIN] and SEQ CONFIG_WRITTEN; RES is unchanged, or the
step read the conversion register, RES is {hi, lo} as read and SEQ is RESULT_READY. The access stands on the
trace, unless a reset has cut a transaction before (then the trace is unconstrained, log 10). (10_state.md R27,
10_state.md R28, 20_memory.md R44, 20_memory.md R45) -/
def Obligations.ResultAndGhostRegistersChangeOnlyWithTheirAccess : Prop :=
  ∀ s t : State, s.resetNext = false → step s = .next t →
    ((t.lastw = s.lastw ∧ t.lastwValid = s.lastwValid ∧ t.resg = s.resg) ∨
      (t.seq = .configWritten ∧ t.lastw = Codec.encode t.sess ∧ t.lastwValid = true ∧ t.resg = t.sess.gain ∧
        s.Shows [.bt s.addr, .w 1, .w (t.lastw.extractLsb' 8 8), .w (t.lastw.extractLsb' 0 8), .et] t.bus)) ∧
    (t.res = s.res ∨
      (t.seq = .resultReady ∧ ∃ hi lo : Byte, t.res = hi ++ lo ∧
        s.Shows [.bt s.addr, .w 0, .et, .rq s.addr 2, .rb hi, .rb lo] t.bus))

/-- For every step that is not a reset, where no reset has cut a transaction before, the bus trace grows by nothing,
by exactly BT(ADDR) W(p) W(v[15:8]) W(v[7:0]) ET with p in 1..3, or by exactly BT(ADDR) W(0) ET RQ(ADDR, 2) RB
hi RB lo; the read-only pointer 0 is never written, register 1 never read, pointers above 3 never accessed.
Where the step is a stall (log 15), it grows by the first primitives of one of these and the machine is stalled.
(20_memory.md R41, 20_memory.md R44, 20_memory.md R45, 20_memory.md R46, 20_memory.md R47, 20_memory.md R55) -/
def Obligations.StepPerformsAtMostOneWholeTransaction : Prop :=
  ∀ s t : State, s.resetNext = false → s.busCut = false → step s = .next t →
    t.bus = s.bus ∨
    ∃ es : List BusEvent,
      ((∃ (p : Byte) (v : Word), (p = 1 ∨ p = 2 ∨ p = 3) ∧
          es = [.bt s.addr, .w p, .w (v.extractLsb' 8 8), .w (v.extractLsb' 0 8), .et]) ∨
        (∃ hi lo : Byte, es = [.bt s.addr, .w 0, .et, .rq s.addr 2, .rb hi, .rb lo])) ∧
      (t.bus = s.bus ++ es ∧ (∀ k, nextMove s ≠ .stall k) ∨
        ∃ k n, nextMove s = .stall k ∧ 0 < n ∧ t.bus = s.bus ++ es.take n ∧ t.stalled = true)

/-- A step takes no command, or, in IDLE, exactly the first offered one; a host move only adds one at the end. While
SEQ is not IDLE after a step that began outside IDLE, CUR is unchanged. (00_scope.md R9, 20_memory.md R51,
20_memory.md R54, 10_state.md R25) -/
def Obligations.CommandsAreTakenOnlyInIdle : Prop :=
  ∀ s t : State, step s = .next t →
    (t.cmds = s.cmds ∨ (s.seq = .idle ∧ t.cmds = s.cmds.tail) ∨ ∃ w, nextMove s = .host w ∧ t.cmds = s.cmds ++ [w]) ∧
    (s.seq ≠ .idle → t.seq ≠ .idle → t.cur = s.cur)

/-- For every step: TMR is unchanged, or the step was a tick in SETTLING with TMR above 0 and TMR is one less, or
the step was Settle and TMR is delayFor(S[RATE]) with one pulse of tb_restart, or it was a reset and TMR is 0;
tb_restart pulses only with Settle. (10_state.md R26, 42_single_shot.md R119, 60_exceptions.md R162) -/
def Obligations.TimerIsWrittenOnlyBySettleTickAndReset : Prop :=
  ∀ s t : State, step s = .next t →
    (t.tmr = s.tmr ∧ t.tbRestarts = s.tbRestarts) ∨
    (nextMove s = .tick ∧ s.seq = .settling ∧ 0 < s.tmr.toNat ∧ t.tmr.toNat + 1 = s.tmr.toNat ∧
      t.tbRestarts = s.tbRestarts) ∨
    (t.seq = .settling ∧ t.tmr = Codec.delayFor (t.sess.rate.setWidth 8) ∧ t.tbRestarts = s.tbRestarts + 1) ∨
    (s.resetNext = true ∧ t.tmr = 0 ∧ t.tbRestarts = s.tbRestarts)

/-- The frame of every command in every phase: whatever exec answers as next state, the parameters, ADDR, the strap
level, the commands offered and the schedule are as before; responses and the bus trace only grow, by at most
one response, and no command marks a primitive stalled (log 15) or the trace cut (log 10). (10_state.md R21,
10_state.md R35, 20_memory.md R51) -/
def Obligations.InstructionsTouchNoPortInput : Prop :=
  ∀ (i : Instr) (s t : State), exec i s = .next t →
    t.cfg = s.cfg ∧ t.addr = s.addr ∧ t.addrSel = s.addrSel ∧ t.cmds = s.cmds ∧ t.sched = s.sched ∧
    t.stalled = s.stalled ∧ t.busCut = s.busCut ∧
    (t.rsps = s.rsps ∨ ∃ r, t.rsps = s.rsps ++ [r]) ∧ (∃ es, t.bus = s.bus ++ es)

/-- When the next move is a reset, in any phase: ADDR, S, SEQ, TMR, RES, RESG and LASTW_VALID take their reset
values, no response is produced for a command in flight, the offered commands stay offered, a stalled primitive
(log 15) no longer holds ARCS, and, unless it cuts a transaction (no primitive of one had gone out), the bus
trace is unchanged. (70_reset_and_hazards.md R175, 70_reset_and_hazards.md R176, 10_state.md R31) -/
def Obligations.ResetInARunGivesTheResetState : Prop :=
  ∀ (s : State) (n : Nat) (r : List Move), s.sched = .reset n :: r →
    ∃ t, step s = .next t ∧ some t.addr = s.cfg.addrTable[s.addrSel.toNat]? ∧
      t.sess = Codec.decode s.cfg.defaultWord ∧ t.seq = .idle ∧ t.tmr = 0 ∧ t.res = 0 ∧
      t.resg = (Codec.decode s.cfg.defaultWord).gain ∧ t.lastwValid = false ∧
      t.rsps = s.rsps ∧ t.cmds = s.cmds ∧ t.cfg = s.cfg ∧ t.sched = r ∧ t.stalled = false ∧
      (n = 0 ∨ s.seq = .idle → t.bus = s.bus)

/-- Where the sequencer's next step would have added the primitives es to the bus trace and no transaction has been
cut before, a reset that meets it after n of them leaves the first n of es on the trace: the primitives already
issued have been issued and the rest are not. If there are any the trace is marked cut. How many have been
issued, and that it is at most all but the last, is the model's choice (log 10, DESIGN CHOICE).
(70_reset_and_hazards.md R177) -/
def Obligations.ResetCutsATransactionToAStrictPrefix : Prop :=
  ∀ (s u : State) (n : Nat), s.seq ≠ .idle → s.stalled = false → s.busCut = false → sequencerStep s = .next u →
    ∃ (es : List BusEvent) (t : State), u.bus = s.bus ++ es ∧ applyMove (.reset n) s = .next t ∧
      t.bus = s.bus ++ es.take (min n (es.length - 1)) ∧ t.busCut = (decide (0 < n) && !es.isEmpty)

/-- With the default parameters: ADDR 0x48, the nine fields of 0x4183, SEQ IDLE with cmd_ready 1, TMR 0, RES 0, RESG
0, LASTW_VALID 0, and nothing on the bus. (R31) -/
def Obligations.PowerOnResetState : Prop :=
  State.reset.addr = 0x48 ∧
  State.reset.sess =
    { cque := 3, clat := 0, cpol := 0, cmode := 0, rate := 4, mode := 1, gain := 0, mux := 4, os := 0 } ∧
  Codec.encode State.reset.sess = 0x4183 ∧ State.reset.seq = .idle ∧ State.reset.cmdReady = true ∧
  State.reset.tmr = 0 ∧ State.reset.res = 0 ∧ State.reset.resg = 0 ∧ State.reset.lastwValid = false ∧
  State.reset.bus = [] ∧
  (∀ c : Config, (State.initial c).sess = Codec.decode c.defaultWord ∧
    some (State.initial c).addr = c.addrTable[c.addrSel.toNat]? ∧
    (State.initial c).resg = (Codec.decode c.defaultWord).gain ∧
    (c.ok = true → (State.initial c).sess.gain = 0 ∧ (State.initial c).sess.mode = c.modeSingle ∧
      ((State.initial c).sess.rate = 3 ∨ (State.initial c).sess.rate = 4)))

/-- The default parameters meet their constraints, and for every parameter record that does, the state after
power-on reset meets the invariant: SEQ in step with CUR and UPC, the timer bounded, coherence wherever it is
due. (CUR, UPC and LASTW are there the model's choice, log 2 and log 3; the invariant does not rest on them.)
(10_state.md R31, 10_state.md R33, 00_scope.md R10) -/
def Obligations.InvariantHoldsAtReset : Prop :=
  Config.standard.ok = true ∧ ∀ c : Config, c.ok = true → (State.initial c).Inv

/-- From every state that meets the invariant (allowed parameters; SEQ, CUR and UPC in step; TMR 0 outside SETTLING
and at most the session's delay; in continuous mode at rest the last word sent equals the packed session; a
stalled primitive, log 15, only with a command in flight), whatever step comes next, a reset in any phase
included, the next state meets it. (10_state.md R33, 10_state.md R24, 10_state.md R26, 42_single_shot.md R115,
20_memory.md R55) -/
def Obligations.EveryStepKeepsTheInvariant : Prop :=
  ∀ s t : State, s.Inv → step s = .next t → t.Inv

/-- After any number of steps from a state that meets the invariant, whenever SEQ = IDLE and S[MODE] = MODE_CONT:
LASTW_VALID = 1 and LASTW = encode(S); and whenever CONFIG_WRITTEN is the phase, in either mode, LASTW =
encode(S). (R33) -/
def Obligations.ContinuousModeIsCoherentAtRest : Prop :=
  ∀ (n : Nat) (s t : State), s.Inv → Host.Core.run Sys2Proof.core n s = .next t →
    (t.seq = .idle → t.sess.mode = t.cfg.modeCont → t.lastwValid = true ∧ t.lastw = Codec.encode t.sess) ∧
    (t.seq = .configWritten → t.lastw = Codec.encode t.sess)

/-- No command can fail to complete for a reason inside ARCS: from every state in which SEQ, CUR and UPC agree, any
number of steps answers a next state, never a fault and never a refusal, and that state is in step again.
(60_exceptions.md R151, 00_scope.md R16) -/
def Obligations.NoStepStopsTheMachine : Prop :=
  ∀ (n : Nat) (s : State), s.InStep →
    ∃ t, Host.Core.run Sys2Proof.core n s = .next t ∧ t.InStep

/-- In the model's default order of moves (log 6, DESIGN CHOICE), in which the transport completes every primitive
(log 15, DESIGN CHOICE): from IDLE, with no move scheduled ahead, an offered command is accepted and after
exactly stepsOf steps (accept, micro-steps, and delayFor(rate) ticks for an acquisition) SEQ is IDLE again; the
session is the one the command's rule leaves, the bus trace has grown by exactly the listed accesses in order
(where no reset has cut it before), exactly one response is given with the value and RANGE bit the tables give,
RES is the code read by a reading command, RESG and LASTW follow the configuration written by a writing one, and
ADDR, the parameters and the other offered commands are unchanged. (20_memory.md R56, 42_single_shot.md R115,
30_encoding.md R67, 30_encoding.md R68, 00_scope.md R9) -/
def Obligations.EveryCommandRunsToItsResponse : Prop :=
  ∀ (s : State) (w : Cmd) (rest : List Cmd) (i : Instr),
    s.seq = .idle → s.stalled = false → s.sched = [] → s.cmds = w :: rest → decode w = .instr i →
    ∃ (hi lo : Byte) (t : State),
      Host.Core.run Sys2Proof.core (stepsOf s.cfg i s.sess) s = .next t ∧
      (∀ b, s.rx[0]? = some b → hi = b) ∧ (∀ b, s.rx[1]? = some b → lo = b) ∧
      t.seq = .idle ∧ t.sess = sessionAfter s.cfg i s.sess ∧
      s.Shows ((accesses s.cfg i s.sess hi lo).flatMap (Access.events s.addr)) t.bus ∧
      t.rsps = s.rsps ++ [rspWord (.ofRange (rangeOf i)) (valueOf s.cfg i s.sess t.res t.resg)] ∧
      t.res = (if readsConversion i then hi ++ lo else s.res) ∧
      t.resg = (if hasConfigWrite s.cfg i s.sess then (sessionAfter s.cfg i s.sess).gain else s.resg) ∧
      t.lastw = (if hasConfigWrite s.cfg i s.sess then Codec.encode (sessionAfter s.cfg i s.sess) else s.lastw) ∧
      t.lastwValid = (hasConfigWrite s.cfg i s.sess || s.lastwValid) ∧
      t.cmds = rest ∧ t.addr = s.addr ∧ t.cfg = s.cfg ∧ t.addrSel = s.addrSel ∧ t.sched = [] ∧
      t.stalled = false ∧ t.busCut = s.busCut

/-- In the model's default order of moves (log 6, DESIGN CHOICE), in which the transport completes every primitive
(log 15, DESIGN CHOICE): from every state outside IDLE that is in step, with nothing stalled, whose timer is
within its bound and with no move scheduled ahead, some run of at most 130 steps answers a state in IDLE with
one response more. (42_single_shot.md R115, 42_single_shot.md R119) -/
def Obligations.CommandInFlightReturnsToIdle : Prop :=
  ∀ s : State, s.seq ≠ .idle → s.stalled = false → s.InStep → s.TimerBounded → s.sched = [] →
    ∃ (n : Nat) (t : State) (r : Rsp), n ≤ 130 ∧ Host.Core.run Sys2Proof.core n s = .next t ∧
      t.seq = .idle ∧ t.rsps = s.rsps ++ [r]

/-- Two states are the same but for reads when they differ at most in the bytes still to come, RES, the model's
counter, CUR and UPC in IDLE (unspecified there), the values V of the responses (never their status bits), and
the bytes of the RB events of the trace (or anything of it, once a reset has cut it). Every step that is not a
reset keeps this relation: if one state takes a step so does the other, and the results are related again; so it
holds along every run without a reset. (A reset is left out: after it LASTW is a free value, log 12, drawn with
the model's counter, log 4, in which the two states may differ.) And a step that is not ACQ's, RDCH's, RDDF's or
GETLAST's adds the same responses to both. (20_memory.md R49, 20_memory.md R51, 42_single_shot.md R121,
10_state.md R25) -/
def Obligations.ReadBytesReachOnlyResultsAndResponses : Prop :=
  ∀ s s' t : State, s.SameButForReads s' → s.resetNext = false → step s = .next t →
    ∃ t', step s' = .next t' ∧ t.SameButForReads t' ∧
      ((∀ i, s.acting = some i → returnsCode i = false) →
        ∃ added, t.rsps = s.rsps ++ added ∧ t'.rsps = s'.rsps ++ added)

/-- In the model's default order of moves (log 6, DESIGN CHOICE), in which the transport completes every primitive
(log 15, DESIGN CHOICE): from IDLE, with nothing stalled and no move scheduled ahead, an accepted ACQ, RDCH or
RDDF answers after 5 steps and delayFor(S[RATE]) ticks, with V[18:16] = S[GAIN] as it was at accept and V[15:0]
the code read. (42_single_shot.md R120, 42_single_shot.md R116, 42_single_shot.md R119) -/
def Obligations.AcquisitionInTheDefaultOrder : Prop :=
  ∀ (s : State) (w : Cmd) (rest : List Cmd) (i : Instr), s.seq = .idle → s.stalled = false → s.sched = [] →
    s.cmds = w :: rest → decode w = .instr i → (i = .acq ∨ ∃ c, c.toNat ≤ 3 ∧ (i = .rdch c ∨ i = .rddf c)) →
    ∃ t, Host.Core.run Sys2Proof.core (5 + (Codec.delayFor (s.sess.rate.setWidth 8)).toNat) s = .next t ∧
      t.seq = .idle ∧ t.resg = s.sess.gain ∧
      t.rsps = s.rsps ++ [rspWord .ok (resultWord s.sess.gain t.res)]

/-- Where the sequencer's next step would have added the primitives es to the bus trace, a stall leaves a part of es
on it, marks the machine stalled and changes no phase and no register but the session, which is as that step
leaves it (a comparator start sets MODE before its configuration write); where es is empty it changes nothing.
Once stalled in flight, every step that is not a reset leaves phase, cmd_ready = 0, responses, trace and every
register as they are, however many steps are made; a reset ends it, with no response and nothing more on the
bus. That a stall is a move of the transport, and how it is scheduled, is the model's choice (log 15, DESIGN
CHOICE). (20_memory.md R55, 60_exceptions.md R153, 70_reset_and_hazards.md R175) -/
def Obligations.StalledPrimitiveHoldsArcsUntilReset : Prop :=
  (∀ (s u : State) (k : Nat), s.seq ≠ .idle → s.stalled = false → s.busCut = false → sequencerStep s = .next u →
    ∃ (es : List BusEvent) (n : Nat) (t : State), u.bus = s.bus ++ es ∧ applyMove (.stall k) s = .next t ∧
      t = { s with
        bus := s.bus ++ es.take n, stalled := !es.isEmpty, sess := u.sess, rx := t.rx, freeIdx := t.freeIdx } ∧
      n = (if es.length = 5 then min (k + 1) 5 else if k < 4 then k + 1 else min k 5)) ∧
  (∀ (n : Nat) (s : State), s.stalled = true → s.seq ≠ .idle → s.tmr = 0 →
    (∀ m ∈ s.sched.take n, ∀ k, m ≠ .reset k) →
    ∃ t, Host.Core.run Sys2Proof.core n s = .next t ∧ t.cmdReady = false ∧
      t = { s with sched := s.sched.drop n, cmds := t.cmds, addrSel := t.addrSel }) ∧
  (∀ (s : State) (n : Nat) (r : List Move), s.stalled = true → s.sched = .reset n :: r →
    ∃ t, step s = .next t ∧ t.seq = .idle ∧ t.stalled = false ∧ t.rsps = s.rsps ∧ t.bus = s.bus ∧ t.busCut = true)

/-- Once a reset has cut a transaction, every step adds nothing to the bus trace or a free value, of which nothing
can be proved, whatever the step performs, and the mark never goes away. Holding this as a mark and a free value
for each step that performs something is the model's choice (log 10, DESIGN CHOICE). Only a reset sets the mark,
and never in IDLE. (70_reset_and_hazards.md R177) -/
def Obligations.TraceAfterACutIsUnconstrained : Prop :=
  (∀ s t : State, s.busCut = true → step s = .next t →
    t.busCut = true ∧ (t.bus = s.bus ∨ ∃ k, t.bus = s.bus ++ Config.freeTrace k)) ∧
  (∀ s t : State, s.busCut = false → step s = .next t → t.busCut = true →
    s.resetNext = true ∧ (s.seq ≠ .idle ∨ s.stalled = true))
end

