-- ==== Sys2Proof/Laws/State.lean ====
section
/-! SUPPORT. What each update of the state leaves in each field, one lemma a field, so that no later proof unfolds a
record update. -/

namespace Sys2Proof.Machine

/-! ### `Respond` -/

@[simp] theorem respond_cfg (st : Status) (v : BitVec 32) (s : State) : (respond st v s).cfg = s.cfg := rfl
@[simp] theorem respond_addrSel (st : Status) (v : BitVec 32) (s : State) : (respond st v s).addrSel = s.addrSel := rfl
@[simp] theorem respond_addr (st : Status) (v : BitVec 32) (s : State) : (respond st v s).addr = s.addr := rfl
@[simp] theorem respond_sess (st : Status) (v : BitVec 32) (s : State) : (respond st v s).sess = s.sess := rfl
@[simp] theorem respond_seq (st : Status) (v : BitVec 32) (s : State) : (respond st v s).seq = .idle := rfl
@[simp] theorem respond_cur (st : Status) (v : BitVec 32) (s : State) : (respond st v s).cur = Config.freeCur s.freeIdx := rfl
@[simp] theorem respond_upc (st : Status) (v : BitVec 32) (s : State) : (respond st v s).upc = Config.freeUpc s.freeIdx := rfl
@[simp] theorem respond_tmr (st : Status) (v : BitVec 32) (s : State) : (respond st v s).tmr = s.tmr := rfl
@[simp] theorem respond_res (st : Status) (v : BitVec 32) (s : State) : (respond st v s).res = s.res := rfl
@[simp] theorem respond_resg (st : Status) (v : BitVec 32) (s : State) : (respond st v s).resg = s.resg := rfl
@[simp] theorem respond_lastw (st : Status) (v : BitVec 32) (s : State) : (respond st v s).lastw = s.lastw := rfl
@[simp] theorem respond_lastwValid (st : Status) (v : BitVec 32) (s : State) : (respond st v s).lastwValid = s.lastwValid := rfl
@[simp] theorem respond_cmds (st : Status) (v : BitVec 32) (s : State) : (respond st v s).cmds = s.cmds := rfl
@[simp] theorem respond_rsps (st : Status) (v : BitVec 32) (s : State) : (respond st v s).rsps = s.rsps ++ [rspWord st v] := rfl
@[simp] theorem respond_bus (st : Status) (v : BitVec 32) (s : State) : (respond st v s).bus = s.bus := rfl
@[simp] theorem respond_busCut (st : Status) (v : BitVec 32) (s : State) : (respond st v s).busCut = s.busCut := rfl
@[simp] theorem respond_stalled (st : Status) (v : BitVec 32) (s : State) : (respond st v s).stalled = s.stalled := rfl
@[simp] theorem respond_tbRestarts (st : Status) (v : BitVec 32) (s : State) : (respond st v s).tbRestarts = s.tbRestarts := rfl
@[simp] theorem respond_rx (st : Status) (v : BitVec 32) (s : State) : (respond st v s).rx = s.rx := rfl
@[simp] theorem respond_sched (st : Status) (v : BitVec 32) (s : State) : (respond st v s).sched = s.sched := rfl
@[simp] theorem respond_freeIdx (st : Status) (v : BitVec 32) (s : State) : (respond st v s).freeIdx = s.freeIdx + 1 := rfl

/-! ### Accepting a command with a micro-sequence -/

@[simp] theorem issue_cfg (s : State) : (issue s).cfg = s.cfg := rfl
@[simp] theorem issue_addrSel (s : State) : (issue s).addrSel = s.addrSel := rfl
@[simp] theorem issue_addr (s : State) : (issue s).addr = s.addr := rfl
@[simp] theorem issue_sess (s : State) : (issue s).sess = s.sess := rfl
@[simp] theorem issue_seq (s : State) : (issue s).seq = .issue := rfl
@[simp] theorem issue_cur (s : State) : (issue s).cur = s.cur := rfl
@[simp] theorem issue_upc (s : State) : (issue s).upc = 0 := rfl
@[simp] theorem issue_tmr (s : State) : (issue s).tmr = s.tmr := rfl
@[simp] theorem issue_res (s : State) : (issue s).res = s.res := rfl
@[simp] theorem issue_resg (s : State) : (issue s).resg = s.resg := rfl
@[simp] theorem issue_lastw (s : State) : (issue s).lastw = s.lastw := rfl
@[simp] theorem issue_lastwValid (s : State) : (issue s).lastwValid = s.lastwValid := rfl
@[simp] theorem issue_cmds (s : State) : (issue s).cmds = s.cmds := rfl
@[simp] theorem issue_rsps (s : State) : (issue s).rsps = s.rsps := rfl
@[simp] theorem issue_bus (s : State) : (issue s).bus = s.bus := rfl
@[simp] theorem issue_busCut (s : State) : (issue s).busCut = s.busCut := rfl
@[simp] theorem issue_stalled (s : State) : (issue s).stalled = s.stalled := rfl
@[simp] theorem issue_tbRestarts (s : State) : (issue s).tbRestarts = s.tbRestarts := rfl
@[simp] theorem issue_rx (s : State) : (issue s).rx = s.rx := rfl
@[simp] theorem issue_sched (s : State) : (issue s).sched = s.sched := rfl
@[simp] theorem issue_freeIdx (s : State) : (issue s).freeIdx = s.freeIdx := rfl

/-! ### Primitives going out -/

@[simp] theorem emit_cfg (s : State) (es : List BusEvent) : (s.emit es).cfg = s.cfg := rfl
@[simp] theorem emit_addrSel (s : State) (es : List BusEvent) : (s.emit es).addrSel = s.addrSel := rfl
@[simp] theorem emit_addr (s : State) (es : List BusEvent) : (s.emit es).addr = s.addr := rfl
@[simp] theorem emit_sess (s : State) (es : List BusEvent) : (s.emit es).sess = s.sess := rfl
@[simp] theorem emit_seq (s : State) (es : List BusEvent) : (s.emit es).seq = s.seq := rfl
@[simp] theorem emit_cur (s : State) (es : List BusEvent) : (s.emit es).cur = s.cur := rfl
@[simp] theorem emit_upc (s : State) (es : List BusEvent) : (s.emit es).upc = s.upc := rfl
@[simp] theorem emit_tmr (s : State) (es : List BusEvent) : (s.emit es).tmr = s.tmr := rfl
@[simp] theorem emit_res (s : State) (es : List BusEvent) : (s.emit es).res = s.res := rfl
@[simp] theorem emit_resg (s : State) (es : List BusEvent) : (s.emit es).resg = s.resg := rfl
@[simp] theorem emit_lastw (s : State) (es : List BusEvent) : (s.emit es).lastw = s.lastw := rfl
@[simp] theorem emit_lastwValid (s : State) (es : List BusEvent) : (s.emit es).lastwValid = s.lastwValid := rfl
@[simp] theorem emit_cmds (s : State) (es : List BusEvent) : (s.emit es).cmds = s.cmds := rfl
@[simp] theorem emit_rsps (s : State) (es : List BusEvent) : (s.emit es).rsps = s.rsps := rfl
@[simp] theorem emit_bus (s : State) (es : List BusEvent) : (s.emit es).bus = s.bus ++ s.shown es := rfl
@[simp] theorem emit_busCut (s : State) (es : List BusEvent) : (s.emit es).busCut = s.busCut := rfl
@[simp] theorem emit_stalled (s : State) (es : List BusEvent) : (s.emit es).stalled = s.stalled := rfl
@[simp] theorem emit_tbRestarts (s : State) (es : List BusEvent) : (s.emit es).tbRestarts = s.tbRestarts := rfl
@[simp] theorem emit_rx (s : State) (es : List BusEvent) : (s.emit es).rx = s.rx := rfl
@[simp] theorem emit_sched (s : State) (es : List BusEvent) : (s.emit es).sched = s.sched := rfl
@[simp] theorem emit_freeIdx (s : State) (es : List BusEvent) : (s.emit es).freeIdx = s.freeIdx + s.busCut.toNat := rfl

/-! ### A micro-step done -/

@[simp] theorem advance_cfg (s : State) : (s.advance).cfg = s.cfg := rfl
@[simp] theorem advance_addrSel (s : State) : (s.advance).addrSel = s.addrSel := rfl
@[simp] theorem advance_addr (s : State) : (s.advance).addr = s.addr := rfl
@[simp] theorem advance_sess (s : State) : (s.advance).sess = s.sess := rfl
@[simp] theorem advance_seq (s : State) : (s.advance).seq = s.seq := rfl
@[simp] theorem advance_cur (s : State) : (s.advance).cur = s.cur := rfl
@[simp] theorem advance_upc (s : State) : (s.advance).upc = s.upc + 1 := rfl
@[simp] theorem advance_tmr (s : State) : (s.advance).tmr = s.tmr := rfl
@[simp] theorem advance_res (s : State) : (s.advance).res = s.res := rfl
@[simp] theorem advance_resg (s : State) : (s.advance).resg = s.resg := rfl
@[simp] theorem advance_lastw (s : State) : (s.advance).lastw = s.lastw := rfl
@[simp] theorem advance_lastwValid (s : State) : (s.advance).lastwValid = s.lastwValid := rfl
@[simp] theorem advance_cmds (s : State) : (s.advance).cmds = s.cmds := rfl
@[simp] theorem advance_rsps (s : State) : (s.advance).rsps = s.rsps := rfl
@[simp] theorem advance_bus (s : State) : (s.advance).bus = s.bus := rfl
@[simp] theorem advance_busCut (s : State) : (s.advance).busCut = s.busCut := rfl
@[simp] theorem advance_stalled (s : State) : (s.advance).stalled = s.stalled := rfl
@[simp] theorem advance_tbRestarts (s : State) : (s.advance).tbRestarts = s.tbRestarts := rfl
@[simp] theorem advance_rx (s : State) : (s.advance).rx = s.rx := rfl
@[simp] theorem advance_sched (s : State) : (s.advance).sched = s.sched := rfl
@[simp] theorem advance_freeIdx (s : State) : (s.advance).freeIdx = s.freeIdx := rfl

/-! ### Latching the offered command -/

@[simp] theorem latch_cfg (w : Cmd) (rest : List Cmd) (s : State) : (latch w rest s).cfg = s.cfg := rfl
@[simp] theorem latch_addrSel (w : Cmd) (rest : List Cmd) (s : State) : (latch w rest s).addrSel = s.addrSel := rfl
@[simp] theorem latch_addr (w : Cmd) (rest : List Cmd) (s : State) : (latch w rest s).addr = s.addr := rfl
@[simp] theorem latch_sess (w : Cmd) (rest : List Cmd) (s : State) : (latch w rest s).sess = s.sess := rfl
@[simp] theorem latch_seq (w : Cmd) (rest : List Cmd) (s : State) : (latch w rest s).seq = s.seq := rfl
@[simp] theorem latch_cur (w : Cmd) (rest : List Cmd) (s : State) : (latch w rest s).cur = w := rfl
@[simp] theorem latch_upc (w : Cmd) (rest : List Cmd) (s : State) : (latch w rest s).upc = 0 := rfl
@[simp] theorem latch_tmr (w : Cmd) (rest : List Cmd) (s : State) : (latch w rest s).tmr = s.tmr := rfl
@[simp] theorem latch_res (w : Cmd) (rest : List Cmd) (s : State) : (latch w rest s).res = s.res := rfl
@[simp] theorem latch_resg (w : Cmd) (rest : List Cmd) (s : State) : (latch w rest s).resg = s.resg := rfl
@[simp] theorem latch_lastw (w : Cmd) (rest : List Cmd) (s : State) : (latch w rest s).lastw = s.lastw := rfl
@[simp] theorem latch_lastwValid (w : Cmd) (rest : List Cmd) (s : State) : (latch w rest s).lastwValid = s.lastwValid := rfl
@[simp] theorem latch_cmds (w : Cmd) (rest : List Cmd) (s : State) : (latch w rest s).cmds = rest := rfl
@[simp] theorem latch_rsps (w : Cmd) (rest : List Cmd) (s : State) : (latch w rest s).rsps = s.rsps := rfl
@[simp] theorem latch_bus (w : Cmd) (rest : List Cmd) (s : State) : (latch w rest s).bus = s.bus := rfl
@[simp] theorem latch_busCut (w : Cmd) (rest : List Cmd) (s : State) : (latch w rest s).busCut = s.busCut := rfl
@[simp] theorem latch_stalled (w : Cmd) (rest : List Cmd) (s : State) : (latch w rest s).stalled = s.stalled := rfl
@[simp] theorem latch_tbRestarts (w : Cmd) (rest : List Cmd) (s : State) : (latch w rest s).tbRestarts = s.tbRestarts := rfl
@[simp] theorem latch_rx (w : Cmd) (rest : List Cmd) (s : State) : (latch w rest s).rx = s.rx := rfl
@[simp] theorem latch_sched (w : Cmd) (rest : List Cmd) (s : State) : (latch w rest s).sched = s.sched := rfl
@[simp] theorem latch_freeIdx (w : Cmd) (rest : List Cmd) (s : State) : (latch w rest s).freeIdx = s.freeIdx := rfl

/-! ### `S[MODE] <- MODE_CONT` -/

@[simp] theorem setCont_cfg (s : State) : (setCont s).cfg = s.cfg := rfl
@[simp] theorem setCont_addrSel (s : State) : (setCont s).addrSel = s.addrSel := rfl
@[simp] theorem setCont_addr (s : State) : (setCont s).addr = s.addr := rfl
@[simp] theorem setCont_sess (s : State) : (setCont s).sess = { s.sess with mode := s.cfg.modeCont } := rfl
@[simp] theorem setCont_seq (s : State) : (setCont s).seq = s.seq := rfl
@[simp] theorem setCont_cur (s : State) : (setCont s).cur = s.cur := rfl
@[simp] theorem setCont_upc (s : State) : (setCont s).upc = s.upc := rfl
@[simp] theorem setCont_tmr (s : State) : (setCont s).tmr = s.tmr := rfl
@[simp] theorem setCont_res (s : State) : (setCont s).res = s.res := rfl
@[simp] theorem setCont_resg (s : State) : (setCont s).resg = s.resg := rfl
@[simp] theorem setCont_lastw (s : State) : (setCont s).lastw = s.lastw := rfl
@[simp] theorem setCont_lastwValid (s : State) : (setCont s).lastwValid = s.lastwValid := rfl
@[simp] theorem setCont_cmds (s : State) : (setCont s).cmds = s.cmds := rfl
@[simp] theorem setCont_rsps (s : State) : (setCont s).rsps = s.rsps := rfl
@[simp] theorem setCont_bus (s : State) : (setCont s).bus = s.bus := rfl
@[simp] theorem setCont_busCut (s : State) : (setCont s).busCut = s.busCut := rfl
@[simp] theorem setCont_stalled (s : State) : (setCont s).stalled = s.stalled := rfl
@[simp] theorem setCont_tbRestarts (s : State) : (setCont s).tbRestarts = s.tbRestarts := rfl
@[simp] theorem setCont_rx (s : State) : (setCont s).rx = s.rx := rfl
@[simp] theorem setCont_sched (s : State) : (setCont s).sched = s.sched := rfl
@[simp] theorem setCont_freeIdx (s : State) : (setCont s).freeIdx = s.freeIdx := rfl

/-! ### `Settle` -/

@[simp] theorem settle_cfg (s : State) : (settle s).cfg = s.cfg := rfl
@[simp] theorem settle_addrSel (s : State) : (settle s).addrSel = s.addrSel := rfl
@[simp] theorem settle_addr (s : State) : (settle s).addr = s.addr := rfl
@[simp] theorem settle_sess (s : State) : (settle s).sess = s.sess := rfl
@[simp] theorem settle_seq (s : State) : (settle s).seq = .settling := rfl
@[simp] theorem settle_cur (s : State) : (settle s).cur = s.cur := rfl
@[simp] theorem settle_upc (s : State) : (settle s).upc = s.upc := rfl
@[simp] theorem settle_tmr (s : State) : (settle s).tmr = Codec.delayFor (s.sess.rate.setWidth 8) := rfl
@[simp] theorem settle_res (s : State) : (settle s).res = s.res := rfl
@[simp] theorem settle_resg (s : State) : (settle s).resg = s.resg := rfl
@[simp] theorem settle_lastw (s : State) : (settle s).lastw = s.lastw := rfl
@[simp] theorem settle_lastwValid (s : State) : (settle s).lastwValid = s.lastwValid := rfl
@[simp] theorem settle_cmds (s : State) : (settle s).cmds = s.cmds := rfl
@[simp] theorem settle_rsps (s : State) : (settle s).rsps = s.rsps := rfl
@[simp] theorem settle_bus (s : State) : (settle s).bus = s.bus := rfl
@[simp] theorem settle_busCut (s : State) : (settle s).busCut = s.busCut := rfl
@[simp] theorem settle_stalled (s : State) : (settle s).stalled = s.stalled := rfl
@[simp] theorem settle_tbRestarts (s : State) : (settle s).tbRestarts = s.tbRestarts + 1 := rfl
@[simp] theorem settle_rx (s : State) : (settle s).rx = s.rx := rfl
@[simp] theorem settle_sched (s : State) : (settle s).sched = s.sched := rfl
@[simp] theorem settle_freeIdx (s : State) : (settle s).freeIdx = s.freeIdx := rfl

/-! ### `WriteConfig` -/

@[simp] theorem writeConfig_cfg (s : State) : (writeConfig s).cfg = s.cfg := rfl
@[simp] theorem writeConfig_addrSel (s : State) : (writeConfig s).addrSel = s.addrSel := rfl
@[simp] theorem writeConfig_addr (s : State) : (writeConfig s).addr = s.addr := rfl
@[simp] theorem writeConfig_sess (s : State) : (writeConfig s).sess = s.sess := rfl
@[simp] theorem writeConfig_seq (s : State) : (writeConfig s).seq = .configWritten := rfl
@[simp] theorem writeConfig_cur (s : State) : (writeConfig s).cur = s.cur := rfl
@[simp] theorem writeConfig_upc (s : State) : (writeConfig s).upc = s.upc := rfl
@[simp] theorem writeConfig_tmr (s : State) : (writeConfig s).tmr = s.tmr := rfl
@[simp] theorem writeConfig_res (s : State) : (writeConfig s).res = s.res := rfl
@[simp] theorem writeConfig_resg (s : State) : (writeConfig s).resg = s.sess.gain := rfl
@[simp] theorem writeConfig_lastw (s : State) : (writeConfig s).lastw = Codec.encode s.sess := rfl
@[simp] theorem writeConfig_lastwValid (s : State) : (writeConfig s).lastwValid = true := rfl
@[simp] theorem writeConfig_cmds (s : State) : (writeConfig s).cmds = s.cmds := rfl
@[simp] theorem writeConfig_rsps (s : State) : (writeConfig s).rsps = s.rsps := rfl
@[simp] theorem writeConfig_bus (s : State) : (writeConfig s).bus = s.bus ++ s.shown (writeEvents s.addr ptrConfig (Codec.encode s.sess)) := rfl
@[simp] theorem writeConfig_busCut (s : State) : (writeConfig s).busCut = s.busCut := rfl
@[simp] theorem writeConfig_stalled (s : State) : (writeConfig s).stalled = s.stalled := rfl
@[simp] theorem writeConfig_tbRestarts (s : State) : (writeConfig s).tbRestarts = s.tbRestarts := rfl
@[simp] theorem writeConfig_rx (s : State) : (writeConfig s).rx = s.rx := rfl
@[simp] theorem writeConfig_sched (s : State) : (writeConfig s).sched = s.sched := rfl
@[simp] theorem writeConfig_freeIdx (s : State) : (writeConfig s).freeIdx = s.freeIdx + s.busCut.toNat := rfl

/-! ### A reset -/

@[simp] theorem applyReset_cfg (s : State) : (applyReset s).cfg = s.cfg := rfl
@[simp] theorem applyReset_addrSel (s : State) : (applyReset s).addrSel = s.addrSel := rfl
@[simp] theorem applyReset_addr (s : State) : (applyReset s).addr = s.cfg.addrTable[s.addrSel.toNat] := rfl
@[simp] theorem applyReset_sess (s : State) : (applyReset s).sess = Codec.decode s.cfg.defaultWord := rfl
@[simp] theorem applyReset_seq (s : State) : (applyReset s).seq = .idle := rfl
@[simp] theorem applyReset_cur (s : State) : (applyReset s).cur = Config.freeCur s.freeIdx := rfl
@[simp] theorem applyReset_upc (s : State) : (applyReset s).upc = Config.freeUpc s.freeIdx := rfl
@[simp] theorem applyReset_tmr (s : State) : (applyReset s).tmr = 0 := rfl
@[simp] theorem applyReset_res (s : State) : (applyReset s).res = 0 := rfl
@[simp] theorem applyReset_resg (s : State) : (applyReset s).resg = (Codec.decode s.cfg.defaultWord).gain := rfl
@[simp] theorem applyReset_lastw (s : State) : (applyReset s).lastw = Config.freeLastw s.freeIdx := rfl
@[simp] theorem applyReset_lastwValid (s : State) : (applyReset s).lastwValid = false := rfl
@[simp] theorem applyReset_cmds (s : State) : (applyReset s).cmds = s.cmds := rfl
@[simp] theorem applyReset_rsps (s : State) : (applyReset s).rsps = s.rsps := rfl
@[simp] theorem applyReset_bus (s : State) : (applyReset s).bus = s.bus := rfl
@[simp] theorem applyReset_busCut (s : State) : (applyReset s).busCut = s.busCut := rfl
@[simp] theorem applyReset_stalled (s : State) : (applyReset s).stalled = false := rfl
@[simp] theorem applyReset_tbRestarts (s : State) : (applyReset s).tbRestarts = s.tbRestarts := rfl
@[simp] theorem applyReset_rx (s : State) : (applyReset s).rx = s.rx := rfl
@[simp] theorem applyReset_sched (s : State) : (applyReset s).sched = s.sched := rfl
@[simp] theorem applyReset_freeIdx (s : State) : (applyReset s).freeIdx = s.freeIdx + 1 := rfl

end Sys2Proof.Machine
end

