-- ==== Sys2Proof/Laws/Ops.lean ====
section
/-! SUPPORT. One lemma for each shared operation that says everything it can do. -/

namespace Sys2Proof.Machine

/-! ### The trace -/

/-- Before any cut the trace shows the primitives themselves. -/
@[simp] theorem shown_of_not_cut {s : State} {es : List BusEvent} (h : s.busCut = false) : s.shown es = es := by
  simp [State.shown, h]

/-- After a cut the trace shows a free value. -/
@[simp] theorem shown_of_cut {s : State} {es : List BusEvent} (h : s.busCut = true) :
    s.shown es = Config.freeTrace s.freeIdx := by
  simp [State.shown, h]

/-- What going out does to the trace. -/
theorem shows_shown (s : State) (es : List BusEvent) : s.Shows es (s.bus ++ s.shown es) :=
  ⟨fun h => by simp [h], _, rfl⟩

/-! ### Reads -/

/-- One `read()`: the byte script is one shorter, nothing else but the model's counter moves. -/
theorem rxDone_eq (s : State) : s.rxDone = { s with rx := s.rx.tail, freeIdx := s.rxDone.freeIdx } := by
  cases h : s.rx <;> simp [State.rxDone, h]

/-- The byte returned is the script's next one, where there is one. -/
theorem rxByte_of_get {s : State} {b : Byte} (h : s.rx[0]? = some b) : s.rxByte = b := by
  cases hx : s.rx with
  | nil => simp [hx] at h
  | cons a r => simp [hx] at h; simp [State.rxByte, hx, h]

/-- `ReadConv()`: two bytes come back, high first; nothing changes but the trace, RES, SEQ, the byte script and the
model's counter. -/
theorem readConv_spec (s : State) :
    ∃ hi lo : Byte,
      readConv s = { s with
        res := hi ++ lo, seq := .resultReady, rx := s.rx.drop 2
        bus := (readConv s).bus, freeIdx := (readConv s).freeIdx } ∧
      s.Shows [.bt s.addr, .w 0, .et, .rq s.addr 2, .rb hi, .rb lo] (readConv s).bus ∧
      (∀ b, s.rx[0]? = some b → hi = b) ∧ (∀ b, s.rx[1]? = some b → lo = b) := by
  have h1 := rxDone_eq s
  have h2 := rxDone_eq s.rxDone
  refine ⟨s.rxByte, s.rxDone.rxByte, ?_, ?_, fun b h => rxByte_of_get h, fun b h => rxByte_of_get ?_⟩
  · simp only [readConv, memRead]
    rw [h2, h1]
    simp [State.emit, ← List.drop_one, List.drop_drop]
  · refine ⟨fun hc => ?_, s.rxDone.rxDone.shown (readHead s.addr ptrConv ++ [.rb s.rxByte, .rb s.rxDone.rxByte]), ?_⟩
    · have hc' : s.rxDone.rxDone.busCut = false := by rw [h2, h1]; exact hc
      simp only [readConv, memRead, State.emit, shown_of_not_cut hc']
      rw [h2, h1]
      rfl
    · simp only [readConv, memRead, State.emit]
      rw [show s.rxDone.rxDone.bus = s.bus by rw [h2, h1]]
  · rw [h1]
    simpa using h

/-! ### Micro-steps -/

/-- What a write micro-step does to the bus. -/
theorem writeConfig_writes (s : State) : WritesConfig s (MicroOp.writeConfig.run s) :=
  ⟨rfl, shows_shown s _⟩

theorem contWriteConfig_writes (s : State) :
    WritesConfig { s with sess := { s.sess with mode := s.cfg.modeCont } } (MicroOp.contWriteConfig.run s) :=
  ⟨rfl, shows_shown (setCont s) _⟩

theorem writeReg_writes (p : Byte) (v : Word) (s : State) :
    WritesThreshold p v s ((MicroOp.writeReg p v).run s) := ⟨rfl, shows_shown s _⟩

theorem settle_settles (s : State) : Settles s (MicroOp.settle.run s) := rfl

theorem readConv_reads (s : State) : ReadsConversion s (MicroOp.readConv.run s) := by
  obtain ⟨hi, lo, h, hb, h0, h1⟩ := readConv_spec s
  refine ⟨hi, lo, ?_, hb, h0, h1⟩
  simp only [MicroOp.run, State.advance]
  rw [h]

theorem respond_answers (st : Status) (v : BitVec 32) (s : State) : Answers s (rspWord st v) (respond st v s) := rfl

/-- A program's step: it waits, performs the micro-step UPC names, or finds none. -/
theorem runProgram_cases (prog : List MicroOp) (s : State) :
    (s.waiting ∧ runProgram prog s = .next s) ∨
    (¬ s.waiting ∧ ∃ op, prog[s.upc.toNat]? = some op ∧ runProgram prog s = .next (op.run s)) ∨
    (¬ s.waiting ∧ prog[s.upc.toNat]? = none ∧ runProgram prog s = .fault .sequencerOutOfStep) := by
  by_cases hw : s.waiting
  · exact .inl ⟨hw, by simp only [runProgram]; rw [if_pos hw]⟩
  · cases hp : prog[s.upc.toNat]? with
    | none => exact .inr (.inr ⟨hw, rfl, by simp only [runProgram]; rw [if_neg hw, hp]⟩)
    | some op => exact .inr (.inl ⟨hw, op, rfl, by simp only [runProgram]; rw [if_neg hw, hp]⟩)

theorem command_idle {accept : State → State} {prog : List MicroOp} {s : State} (h : s.seq = .idle) :
    command accept prog s = .next (accept s) := by simp [command, h]

theorem command_busy {accept : State → State} {prog : List MicroOp} {s : State} (h : s.seq ≠ .idle) :
    command accept prog s = runProgram prog s := by simp [command, h]

/-! ### Instructions -/

/-- What accepting each command does: the accept of its meaning. -/
def acceptOf : Instr → State → State
  | .enc, s => respond .ok ((Codec.encode s.sess).setWidth 32) s
  | .fld t a, s => match Codec.field a t with
    | some v => respond .ok (v.setWidth 32) s
    | none => refuse s
  | .dly t, s => respond (.ofRange (outOfRange t 7)) ((Codec.delayFor t).setWidth 32) s
  | .scl t, s => respond (.ofRange (outOfRange t 5)) ((Codec.scale128 s.cfg t).setWidth 32) s
  | .mv t a, s => respond (.ofRange (outOfRange t 5)) (Codec.toMv128 s.cfg a t) s
  | .setch t, s => acceptSetter (.ofRange (outOfRange t 3)) (fun S => { S with mux := Codec.chmux s.cfg t }) s
  | .setdf t, s => match Codec.diffmux s.cfg t with
    | some m => acceptSetter .ok (fun S => { S with mux := m }) s
    | none => refuse s
  | .setgain t, s => if outOfRange t 7 then refuse s else acceptSetter .ok (fun S => { S with gain := t3 t }) s
  | .setrate t, s => if outOfRange t 7 then refuse s else acceptSetter .ok (fun S => { S with rate := t3 t }) s
  | .setcmode t, s => if outOfRange t 1 then refuse s else acceptSetter .ok (fun S => { S with cmode := t1 t }) s
  | .setcpol t, s => if outOfRange t 1 then refuse s else acceptSetter .ok (fun S => { S with cpol := t1 t }) s
  | .setclat t, s => if outOfRange t 1 then refuse s else acceptSetter .ok (fun S => { S with clat := t1 t }) s
  | .setcque t, s => if outOfRange t 3 then refuse s else acceptSetter .ok (fun S => { S with cque := t2 t }) s
  | .acq, s => acceptAcquire s.sess.mux s
  | .rdch t, s => match channelMux s.cfg t with
    | some m => acceptAcquire m s
    | none => refuse s
  | .rddf t, s => match Codec.diffmux s.cfg t with
    | some m => acceptAcquire m s
    | none => refuse s
  | .cont, s => issue { s with sess := { s.sess with mode := s.cfg.modeCont, cque := s.cfg.queDisabled } }
  | .getlast, s => issue s
  | .cmpch t _, s => acceptComparator (channelMux s.cfg t) s
  | .cmpchl t _ _, s => acceptComparator (channelMux s.cfg t) s
  | .cmpdf t _, s => acceptComparator (Codec.diffmux s.cfg t) s
  | .cmpdfl t _ _, s => acceptComparator (Codec.diffmux s.cfg t) s
  | .clrlatch, s => issue s

/-- Every instruction is one step of its command. -/
theorem exec_eq_command (i : Instr) (s : State) : exec i s = command (acceptOf i) (program i) s := by
  cases i <;> rfl

theorem exec_idle (i : Instr) {s : State} (h : s.seq = .idle) : exec i s = .next (acceptOf i s) := by
  rw [exec_eq_command, command_idle h]

theorem exec_busy (i : Instr) {s : State} (h : s.seq ≠ .idle) : exec i s = runProgram (program i) s := by
  rw [exec_eq_command, command_busy h]

/-- The micro-step `op` that UPC names is what a command in flight performs once it is enabled. -/
theorem exec_busy_op (i : Instr) {s : State} {op : MicroOp} (h : s.seq ≠ .idle) (hw : ¬ s.waiting)
    (hop : (program i)[s.upc.toNat]? = some op) : exec i s = .next (op.run s) := by
  rw [exec_busy i h, runProgram, if_neg hw, hop]

/-- A command waits while the timer runs. -/
theorem exec_waiting (i : Instr) {s : State} (hw : s.waiting) : exec i s = .next s := by
  have h : s.seq ≠ .idle := by simp [hw.1]
  rw [exec_busy i h, runProgram, if_pos hw]

/-- Accepting a command changes the session and either answers or enters ISSUE. -/
theorem acceptOf_shape (i : Instr) (s : State) :
    ∃ S' : Session,
      (∃ st v, (st.badop && st.range) = false ∧ acceptOf i s = respond st v { s with sess := S' }) ∨
      acceptOf i s = issue { s with sess := S' } := by
  cases i <;> simp only [acceptOf, acceptSetter, acceptAcquire, acceptComparator, refuse] <;>
    (try split) <;> (try split) <;>
    first
    | exact ⟨_, .inl ⟨_, _, rfl, rfl⟩⟩
    | exact ⟨_, .inr rfl⟩

end Sys2Proof.Machine
end

