-- ==== Sys2Proof/Laws/PerInstr.lean ====
section
/-! SUPPORT. Statements made per instruction, about the instruction as syntax. -/

namespace Sys2Proof.Laws.Encoding

/-- The four fields of an instruction's word hold its opcode and its operands, 0 where its format reads none
(30_encoding.md R60, R61, R70). -/
def Statement (i : Instr) : Prop :=
  opField (encode i) = i.opcode ∧ tField (encode i) = i.operandT.getD 0 ∧
    aField (encode i) = i.operandA ∧ bField (encode i) = i.operandB

/-- Each field of a packed word is the one that was packed. -/
theorem packFields_fields (op t : Byte) (a b : Word) :
    opField (packFields op t a b) = op ∧ tField (packFields op t a b) = t ∧
      aField (packFields op t a b) = a ∧ bField (packFields op t a b) = b := by
  refine ⟨?_, ?_, ?_, ?_⟩ <;>
    (apply BitVec.eq_of_getElem_eq
     intro n hn
     simp only [opField, tField, aField, bField, packFields, BitVec.getElem_extractLsb', BitVec.getLsbD_or,
       BitVec.getLsbD_shiftLeft, BitVec.getLsbD_setWidth]
     interval_cases n <;> simp)

theorem enc : Statement .enc := packFields_fields _ _ _ _
theorem fld (t : Byte) (a : Word) : Statement (.fld t a) := packFields_fields _ _ _ _
theorem dly (t : Byte) : Statement (.dly t) := packFields_fields _ _ _ _
theorem scl (t : Byte) : Statement (.scl t) := packFields_fields _ _ _ _
theorem mv (t : Byte) (a : Word) : Statement (.mv t a) := packFields_fields _ _ _ _
theorem setch (t : Byte) : Statement (.setch t) := packFields_fields _ _ _ _
theorem setdf (t : Byte) : Statement (.setdf t) := packFields_fields _ _ _ _
theorem setgain (t : Byte) : Statement (.setgain t) := packFields_fields _ _ _ _
theorem setrate (t : Byte) : Statement (.setrate t) := packFields_fields _ _ _ _
theorem setcmode (t : Byte) : Statement (.setcmode t) := packFields_fields _ _ _ _
theorem setcpol (t : Byte) : Statement (.setcpol t) := packFields_fields _ _ _ _
theorem setclat (t : Byte) : Statement (.setclat t) := packFields_fields _ _ _ _
theorem setcque (t : Byte) : Statement (.setcque t) := packFields_fields _ _ _ _
theorem acq : Statement .acq := packFields_fields _ _ _ _
theorem rdch (t : Byte) : Statement (.rdch t) := packFields_fields _ _ _ _
theorem rddf (t : Byte) : Statement (.rddf t) := packFields_fields _ _ _ _
theorem cont : Statement .cont := packFields_fields _ _ _ _
theorem getlast : Statement .getlast := packFields_fields _ _ _ _
theorem cmpch (t : Byte) (a : Word) : Statement (.cmpch t a) := packFields_fields _ _ _ _
theorem cmpchl (t : Byte) (a b : Word) : Statement (.cmpchl t a b) := packFields_fields _ _ _ _
theorem cmpdf (t : Byte) (a : Word) : Statement (.cmpdf t a) := packFields_fields _ _ _ _
theorem cmpdfl (t : Byte) (a b : Word) : Statement (.cmpdfl t a b) := packFields_fields _ _ _ _
theorem clrlatch : Statement .clrlatch := packFields_fields _ _ _ _

end Sys2Proof.Laws.Encoding
end

