-- ==== Sys2Proof/Laws/Step.lean ====
section
/-! SUPPORT. What one step of the machine can do, said once: the inversion lemma of `step`, and which micro-steps the
commands have. -/

namespace Sys2Proof.Machine

/-- The ways a sequencer step can answer a next state. -/
inductive SequencerStep (s : State) : State → Prop where
  /-- IDLE, no command offered. -/
  | wait (hs : s.seq = .idle) (hc : s.cmds = []) : SequencerStep s s
  /-- IDLE, a command accepted. -/
  | accept (w : Cmd) (rest : List Cmd) (i : Instr) (hs : s.seq = .idle) (hc : s.cmds = w :: rest)
      (hd : decode w = .instr i) : SequencerStep s (acceptOf i (latch w rest s))
  /-- IDLE, a reserved opcode answered. -/
  | reserved (w : Cmd) (rest : List Cmd) (op : Byte) (hs : s.seq = .idle) (hc : s.cmds = w :: rest)
      (hd : decode w = .reserved op) : SequencerStep s (respond .reserved 0 (latch w rest s))
  /-- A command in flight, waiting for a primitive that never completes. -/
  | stuck (hs : s.seq ≠ .idle) (hst : s.stalled = true) : SequencerStep s s
  /-- A command in flight, waiting for the timer. -/
  | settle (i : Instr) (hs : s.seq ≠ .idle) (hst : s.stalled = false) (hd : decode s.cur = .instr i)
      (hw : s.waiting) : SequencerStep s s
  /-- A command in flight, its next micro-step performed. -/
  | micro (i : Instr) (op : MicroOp) (hs : s.seq ≠ .idle) (hst : s.stalled = false) (hd : decode s.cur = .instr i)
      (hw : ¬ s.waiting) (hop : (program i)[s.upc.toNat]? = some op) : SequencerStep s (op.run s)

theorem sequencerStep_inv {s t : State} (h : sequencerStep s = .next t) : SequencerStep s t := by
  unfold sequencerStep at h
  split at h
  · rename_i hs
    split at h
    · rename_i hc
      cases h
      exact .wait hs hc
    · rename_i w rest hc
      split at h
      · rename_i i hd
        rw [exec_idle i (by simpa using hs)] at h
        cases h
        exact .accept w rest i hs hc hd
      · rename_i op hd
        cases h
        exact .reserved w rest op hs hc hd
  · rename_i hs
    split at h
    · rename_i hst
      cases h
      exact .stuck hs hst
    rename_i hst
    replace hst : s.stalled = false := by simpa using hst
    split at h
    · rename_i i hd
      rw [exec_busy i hs] at h
      obtain ⟨hw, he⟩ | ⟨hw, op, hop, he⟩ | ⟨hw, hop, he⟩ := runProgram_cases (program i) s
      · rw [he] at h
        cases h
        exact .settle i hs hst hd hw
      · rw [he] at h
        cases h
        exact .micro i op hs hst hd hw hop
      · rw [he] at h
        cases h
    · cases h

/-- The ways a step can answer a next state; `s` is the state with the move taken off its schedule. -/
inductive MoveMade (m : Move) (s : State) : State → Prop where
  | sequencer (t : State) (hm : m = .sequencer) (ht : SequencerStep s t) : MoveMade m s t
  | tick (hm : m = .tick) : MoveMade m s (tick s)
  | reset (n : Nat) (hm : m = .reset n) : MoveMade m s (applyReset (cutPending n s))
  | stall (k : Nat) (hm : m = .stall k) : MoveMade m s (stall k s)
  | strap (level : BitVec 2) (hm : m = .strap level) : MoveMade m s { s with addrSel := level }
  | host (w : Cmd) (hm : m = .host w) : MoveMade m s { s with cmds := s.cmds ++ [w] }

theorem applyMove_inv {m : Move} {s t : State} (h : applyMove m s = .next t) : MoveMade m s t := by
  cases m with
  | sequencer => exact .sequencer t rfl (sequencerStep_inv h)
  | tick => cases h; exact .tick rfl
  | reset n => cases h; exact .reset n rfl
  | stall k => cases h; exact .stall k rfl
  | strap level => cases h; exact .strap level rfl
  | host w => cases h; exact .host w rfl

/-- Everything a step can do. -/
theorem step_inv {s t : State} (h : step s = .next t) :
    MoveMade (nextMove s) { s with sched := s.sched.tail } t := applyMove_inv h

/-- A step is the next move, made with that move taken off the schedule. -/
theorem step_eq (s : State) : step s = applyMove (nextMove s) { s with sched := s.sched.tail } := rfl

theorem nextMove_cons {s : State} {m : Move} {r : List Move} (h : s.sched = m :: r) : nextMove s = m := by
  simp [nextMove, h]

theorem nextMove_nil_waiting {s : State} (h : s.sched = []) (hw : s.waiting) : nextMove s = .tick := by
  unfold nextMove
  rw [h]
  exact if_pos hw

theorem nextMove_nil {s : State} (h : s.sched = []) (hw : ¬ s.waiting) : nextMove s = .sequencer := by
  unfold nextMove
  rw [h]
  exact if_neg hw

/-- The micro-steps of a command, and whose they are. -/
theorem program_mem {i : Instr} {op : MicroOp} (h : op ∈ program i) :
    op = .writeConfig ∨
    (op = .contWriteConfig ∧ ∃ t a b, i = .cmpch t a ∨ i = .cmpchl t a b ∨ i = .cmpdf t a ∨ i = .cmpdfl t a b) ∨
    (∃ p v, op = .writeReg p v ∧ (p = 2 ∨ p = 3)) ∨
    op = .settle ∨ op = .readConv ∨ op = .respondResult ∨
    (∃ st v, op = .respond st v ∧ (st.badop && st.range) = false) := by
  cases i <;>
    simp only [program, setterProgram, acquireProgram, contProgram, getlastProgram, comparatorProgram,
      clrlatchProgram, List.mem_cons, List.not_mem_nil, or_false] at h <;>
    rcases h with h | h | h | h <;> (try subst h) <;> simp [Status.ok, Status.ofRange, ptrLo, ptrHi]

theorem program_get_mem {i : Instr} {n : Nat} {op : MicroOp} (h : (program i)[n]? = some op) : op ∈ program i :=
  List.mem_of_getElem? h

/-- Everything a micro-step of a command can do. -/
theorem MicroOp.run_cases {i : Instr} {op : MicroOp} (h : op ∈ program i) (s : State) :
    WritesConfig s (op.run s) ∨
    WritesConfig (setCont s) (op.run s) ∨
    (∃ p v, (p = 2 ∨ p = 3) ∧ WritesThreshold p v s (op.run s)) ∨
    Settles s (op.run s) ∨
    ReadsConversion s (op.run s) ∨
    (∃ st v, (st.badop && st.range) = false ∧ op.run s = Machine.respond st v s) := by
  rcases program_mem h with rfl | ⟨rfl, _⟩ | ⟨p, v, rfl, h'⟩ | rfl | rfl | rfl | ⟨st, v, rfl, h'⟩
  · exact .inl (writeConfig_writes s)
  · exact .inr (.inl (contWriteConfig_writes s))
  · exact .inr (.inr (.inl ⟨p, v, h', writeReg_writes p v s⟩))
  · exact .inr (.inr (.inr (.inl rfl)))
  · exact .inr (.inr (.inr (.inr (.inl (readConv_reads s)))))
  · exact .inr (.inr (.inr (.inr (.inr ⟨_, _, rfl, rfl⟩))))
  · exact .inr (.inr (.inr (.inr (.inr ⟨_, _, h', rfl⟩))))

/-- Beginning a transaction reaches the bus trace, the byte script and the model's counter, nothing else. -/
theorem Transaction.begin_frame (n : Nat) (tr : Transaction) (s : State) :
    ∃ fs r k, tr.begin n s = { s with bus := s.bus ++ fs, rx := r, freeIdx := k } := by
  cases tr with
  | write p v => exact ⟨_, s.rx, _, rfl⟩
  | read p =>
    simp only [Transaction.begin]
    split
    · exact ⟨_, s.rx, _, rfl⟩
    · rw [rxDone_eq]
      exact ⟨_, _, _, rfl⟩

/-- A transaction begins in the state its micro-step finds, but for the MODE that a comparator start sets first. -/
theorem MicroOp.transaction_state {op : MicroOp} {s u : State} {tr : Transaction}
    (h : op.transaction s = some (tr, u)) : u = s ∨ (op = .contWriteConfig ∧ u = setCont s) := by
  cases op <;> cases h
  · exact .inl rfl
  · exact .inr ⟨rfl, rfl⟩
  · exact .inl rfl
  · exact .inl rfl

/-- A pending transaction is that of a micro-step a command in flight is enabled to perform. -/
theorem pendingTransaction_some {s u : State} {tr : Transaction} (h : pendingTransaction s = some (tr, u)) :
    s.seq ≠ .idle ∧ ¬ s.waiting ∧ s.stalled = false ∧
      ∃ i op, decode s.cur = .instr i ∧ (program i)[s.upc.toNat]? = some op ∧ op.transaction s = some (tr, u) := by
  unfold pendingTransaction at h
  split at h
  · cases h
  · rename_i hn
    simp only [not_or, Bool.not_eq_true] at hn
    split at h
    · cases h
    · rename_i i hd
      obtain ⟨op, ho, ht⟩ := Option.bind_eq_some_iff.1 h
      exact ⟨hn.1, hn.2.1, hn.2.2, i, op, hd, ho, ht⟩

/-- And every such micro-step's transaction is pending. -/
theorem pendingTransaction_of {s : State} {i : Instr} {op : MicroOp} (hs : s.seq ≠ .idle) (hw : ¬ s.waiting)
    (hst : s.stalled = false) (hd : decode s.cur = .instr i) (hop : (program i)[s.upc.toNat]? = some op) :
    pendingTransaction s = op.transaction s := by
  unfold pendingTransaction
  rw [if_neg (by simp only [not_or]; exact ⟨hs, hw, by simp [hst]⟩)]
  simp [hd, hop]

/-- A pending transaction begins in the state met, but perhaps for the session. -/
theorem pendingTransaction_state {s u : State} {tr : Transaction} (h : pendingTransaction s = some (tr, u)) :
    u = { s with sess := u.sess } := by
  obtain ⟨_, _, _, i, op, _, _, ht⟩ := pendingTransaction_some h
  obtain hu | ⟨_, hu⟩ := MicroOp.transaction_state ht
  · rw [hu]
  · rw [hu, setCont]

/-- A reset's cut reaches, beside what the transaction reached, the mark that the trace is unconstrained. -/
theorem cutPending_frame (n : Nat) (s : State) :
    ∃ fs r k c S, cutPending n s =
      { s with bus := s.bus ++ fs, rx := r, freeIdx := k, busCut := c, sess := S } := by
  unfold cutPending
  split
  · exact ⟨[], s.rx, s.freeIdx, true, s.sess, by simp⟩
  · split
    · exact ⟨[], s.rx, s.freeIdx, s.busCut, s.sess, by simp⟩
    · rename_i tr u hp
      split
      · exact ⟨[], s.rx, s.freeIdx, s.busCut, s.sess, by simp⟩
      · obtain ⟨fs, r, k, h⟩ := tr.begin_frame (tr.cutAt n) u
        refine ⟨fs, r, k, true, u.sess, ?_⟩
        rw [h, pendingTransaction_state hp]

/-- A stall does nothing, or begins the pending transaction and marks it. -/
theorem stall_cases (k : Nat) (s : State) :
    (pendingTransaction s = none ∧ stall k s = s) ∨
    ∃ tr u, pendingTransaction s = some (tr, u) ∧
      stall k s = { tr.begin (tr.stallAt k) u with stalled := true } := by
  unfold stall
  cases pendingTransaction s with
  | none => exact .inl ⟨rfl, rfl⟩
  | some x => exact .inr ⟨x.1, x.2, rfl, rfl⟩

/-- A run goes on from the state its first step gives. -/
theorem run_succ {n : Nat} {s t : State} (h : step s = .next t) :
    Host.Core.run Sys2Proof.core (n + 1) s = Host.Core.run Sys2Proof.core n t := by
  simp only [Host.Core.run, show Sys2Proof.core.step s = .next t from h]

end Sys2Proof.Machine
end

