-- ==== Sys2Proof/Tests/Slice0.lean ====
section
/-! SUPPORT. The model's own tests: expected values are those of spec/95_test_vectors.md (its part is named at each
group) or written out from spec/30_encoding.md. Then, for every obligation with hypotheses, states and operands that
meet them. -/

namespace Sys2Proof.Tests

open Sys2Proof Sys2Proof.Machine

/-! ### Helpers -/

/-- What a test looks at: the responses, the packed session, the bus trace and the phase. -/
def view (t : State) : List Rsp × Word × List BusEvent × Phase := (t.rsps, Codec.encode t.sess, t.bus, t.seq)

/-- The view of a next state. -/
def seen (o : Host.Outcome State Fault Refusal) : Option (List Rsp × Word × List BusEvent × Phase) :=
  match o with
  | .next t => some (view t)
  | .fault _ => none
  | .refused _ => none

/-- One field of a next state. -/
def got {α : Type} (f : State → α) (o : Host.Outcome State Fault Refusal) : Option α :=
  match o with
  | .next t => some (f t)
  | .fault _ => none
  | .refused _ => none

/-- IDLE after reset, with the session that packs to `w`. -/
def at_ (w : Word) : State := { State.reset with sess := Codec.decode w }

/-- The command `cmd` in flight in phase `p` with micro-step `u` next and the session that packs to `w`. -/
def flight (cmd : Cmd) (p : Phase) (u : BitVec 4) (w : Word) : State :=
  { State.reset with sess := Codec.decode w, cur := cmd, seq := p, upc := u }

/-- ACQ in flight, its settling wait over. -/
def settlingRead : State := flight 0x200000000000 .settling 2 0xC183

/-- The state a step answers. -/
def stepTo (s : State) : State :=
  match step s with
  | .next t => t
  | .fault _ => s
  | .refused _ => s

/-- A register write to the device at 0x48. -/
def wr (p hi lo : Byte) : List BusEvent := [.bt 0x48, .w p, .w hi, .w lo, .et]

/-- A conversion read from the device at 0x48. -/
def rd (hi lo : Byte) : List BusEvent := [.bt 0x48, .w 0, .et, .rq 0x48 2, .rb hi, .rb lo]

/-! ### Well-formedness: an operand past its range is refused (30_encoding.md R68) -/

theorem test_fld_9_ill_formed : ¬ (Instr.fld 9 0).WellFormed := by decide
theorem test_dly_8_ill_formed : ¬ (Instr.dly 8).WellFormed := by decide
theorem test_scl_6_ill_formed : ¬ (Instr.scl 6).WellFormed := by decide
theorem test_mv_6_ill_formed : ¬ (Instr.mv 6 0).WellFormed := by decide
theorem test_setch_4_ill_formed : ¬ (Instr.setch 4).WellFormed := by decide
theorem test_setdf_4_ill_formed : ¬ (Instr.setdf 4).WellFormed := by decide
theorem test_setgain_8_ill_formed : ¬ (Instr.setgain 8).WellFormed := by decide
theorem test_setrate_8_ill_formed : ¬ (Instr.setrate 8).WellFormed := by decide
theorem test_setcmode_2_ill_formed : ¬ (Instr.setcmode 2).WellFormed := by decide
theorem test_setcpol_2_ill_formed : ¬ (Instr.setcpol 2).WellFormed := by decide
theorem test_setclat_2_ill_formed : ¬ (Instr.setclat 2).WellFormed := by decide
theorem test_setcque_4_ill_formed : ¬ (Instr.setcque 4).WellFormed := by decide
theorem test_rdch_4_ill_formed : ¬ (Instr.rdch 4).WellFormed := by decide
theorem test_rddf_4_ill_formed : ¬ (Instr.rddf 4).WellFormed := by decide
theorem test_cmpch_4_ill_formed : ¬ (Instr.cmpch 4 0).WellFormed := by decide
theorem test_cmpchl_4_ill_formed : ¬ (Instr.cmpchl 4 0 0).WellFormed := by decide
theorem test_cmpdf_4_ill_formed : ¬ (Instr.cmpdf 4 0).WellFormed := by decide
theorem test_cmpdfl_4_ill_formed : ¬ (Instr.cmpdfl 4 0 0).WellFormed := by decide
theorem test_boundary_operands_well_formed :
    (Instr.fld 8 0).WellFormed ∧ (Instr.dly 7).WellFormed ∧ (Instr.scl 5).WellFormed ∧
      (Instr.setch 3).WellFormed ∧ (Instr.setgain 7).WellFormed ∧ (Instr.setcpol 1).WellFormed := by decide

/-! ### Decoding: one word per constructor (95_test_vectors.md 2.1 to 2.6; the others from 30_encoding.md R60, R64) -/

theorem test_decode_enc : decode 0x010000000000 = .instr .enc := by decide
theorem test_decode_fld : decode 0x0207C1830000 = .instr (.fld 7 0xC183) := by decide
theorem test_decode_dly : decode 0x030300000000 = .instr (.dly 3) := by decide
theorem test_decode_scl : decode 0x040700000000 = .instr (.scl 7) := by decide
theorem test_decode_mv : decode 0x0502FFF00000 = .instr (.mv 2 0xFFF0) := by decide
theorem test_decode_setch : decode 0x100200000000 = .instr (.setch 2) := by decide
theorem test_decode_setdf : decode 0x110300000000 = .instr (.setdf 3) := by decide
theorem test_decode_setgain : decode 0x120700000000 = .instr (.setgain 7) := by decide
theorem test_decode_setrate : decode 0x1303ABCD1234 = .instr (.setrate 3) := by decide
theorem test_decode_setcmode : decode 0x140100000000 = .instr (.setcmode 1) := by decide
theorem test_decode_setcpol : decode 0x150100000000 = .instr (.setcpol 1) := by decide
theorem test_decode_setclat : decode 0x160100000000 = .instr (.setclat 1) := by decide
theorem test_decode_setcque : decode 0x170200000000 = .instr (.setcque 2) := by decide
theorem test_decode_acq : decode 0x2000FFFF0000 = .instr .acq := by decide
theorem test_decode_rdch : decode 0x210400000000 = .instr (.rdch 4) := by decide
theorem test_decode_rddf : decode 0x220300000000 = .instr (.rddf 3) := by decide
theorem test_decode_cont : decode 0x280000000000 = .instr .cont := by decide
theorem test_decode_getlast : decode 0x290000000000 = .instr .getlast := by decide
theorem test_decode_cmpch : decode 0x300100030000 = .instr (.cmpch 1 3) := by decide
theorem test_decode_cmpchl : decode 0x310003E80384 = .instr (.cmpchl 0 1000 900) := by decide
theorem test_decode_cmpdf : decode 0x320000640000 = .instr (.cmpdf 0 100) := by decide
theorem test_decode_cmpdfl : decode 0x330302000100 = .instr (.cmpdfl 3 0x0200 0x0100) := by decide
theorem test_decode_clrlatch : decode 0x380000000000 = .instr .clrlatch := by decide
theorem test_decode_reserved :
    decode 0x06FFFFFFFFFF = .reserved 0x06 ∧ decode 0x070000000000 = .reserved 0x07 ∧
      decode 0xFF0000000000 = .reserved 0xFF := by decide

/-! ### Codec (95_test_vectors.md 1 S1, S10, 2.1) -/

theorem test_codec_round_trip_words :
    Codec.encode ⟨3, 0, 0, 0, 4, 1, 0, 4, 0⟩ = 0x4183 ∧ Codec.encode ⟨2, 1, 0, 1, 7, 0, 5, 3, 1⟩ = 0xBAF6 ∧
      Codec.encode ⟨0, 0, 1, 0, 0, 1, 1, 6, 0⟩ = 0x6308 ∧ Codec.decode 0x5A5A = ⟨2, 0, 1, 1, 2, 0, 5, 5, 0⟩ ∧
      Codec.decode 0xA5A5 = ⟨1, 1, 0, 0, 5, 1, 2, 2, 1⟩ := by decide
theorem test_codec_valid : (Codec.decode 0x0C00).valid = false ∧ (Codec.decode 0x5A5A).valid = true := by decide
theorem test_low_threshold :
    lowThreshold 4 = 0 ∧ lowThreshold 5 = 0 ∧ lowThreshold 6 = 1 ∧ lowThreshold 0x8000 = 0x7FFB ∧
      lowThreshold 0xFFFF = 0xFFFA := by decide

/-! ### Codec commands (95_test_vectors.md 1 S2 to S4, 2.1) -/

theorem test_enc : seen (exec .enc State.reset) = some ([0x000004183], 0x4183, [], .idle) := by decide
theorem test_fld : got State.rsps (exec (.fld 7 0xC183) State.reset) = some [0x000000004] := by decide
theorem test_fld_refused : seen (exec (.fld 9 0xFFFF) State.reset) = some ([0x100000000], 0x4183, [], .idle) := by decide
theorem test_dly : got State.rsps (exec (.dly 3) State.reset) = some [17] := by decide
theorem test_dly_fallback : seen (exec (.dly 255) State.reset) = some ([0x10000007E], 0x4183, [], .idle) := by decide
theorem test_scl : got State.rsps (exec (.scl 0) State.reset) = some [24] := by decide
theorem test_scl_fallback : got State.rsps (exec (.scl 6) State.reset) = some [0x100000000] := by decide
theorem test_mv : got State.rsps (exec (.mv 2 0xFFF0) State.reset) = some [0x0FFFFFF80] := by decide
theorem test_mv_most_negative : got State.rsps (exec (.mv 0 0x8000) State.reset) = some [0x0FFF40000] := by decide

/-! ### Setters (95_test_vectors.md 2.2) -/

theorem test_setch : seen (exec (.setch 2) State.reset) = some ([0], 0x6183, [], .idle) := by decide
theorem test_setch_fallback : seen (exec (.setch 9) (at_ 0x6183)) = some ([0x100000000], 0x4183, [], .idle) := by decide
theorem test_setdf : seen (exec (.setdf 0) State.reset) = some ([0], 0x0183, [], .idle) := by decide
theorem test_setdf_refused : seen (exec (.setdf 4) State.reset) = some ([0x100000000], 0x4183, [], .idle) := by decide
theorem test_setgain : seen (exec (.setgain 7) State.reset) = some ([0], 0x4F83, [], .idle) := by decide
theorem test_setgain_refused : seen (exec (.setgain 8) (at_ 0x4183)) = some ([0x100000000], 0x4183, [], .idle) := by decide
theorem test_setrate_continuous_issues : seen (exec (.setrate 7) (at_ 0x4083)) = some ([], 0x40E3, [], .issue) := by decide
theorem test_setrate_continuous_writes :
    seen (exec (.setrate 7) (flight 0x130700000000 .issue 0 0x40E3)) =
      some ([], 0x40E3, wr 1 0x40 0xE3, .configWritten) := by decide
theorem test_setcmode : seen (exec (.setcmode 1) State.reset) = some ([0], 0x4193, [], .idle) := by decide
theorem test_setcmode_refused : seen (exec (.setcmode 2) State.reset) = some ([0x100000000], 0x4183, [], .idle) := by decide
theorem test_setcpol : seen (exec (.setcpol 1) State.reset) = some ([0], 0x418B, [], .idle) := by decide
theorem test_setclat : seen (exec (.setclat 1) State.reset) = some ([0], 0x4187, [], .idle) := by decide
theorem test_setcque : seen (exec (.setcque 2) State.reset) = some ([0], 0x4182, [], .idle) := by decide
theorem test_setcque_refused : seen (exec (.setcque 4) State.reset) = some ([0x100000000], 0x4183, [], .idle) := by decide

/-! ### Acquisition (95_test_vectors.md 1 S6, 2.3) -/

theorem test_acq_settles :
    got (fun t => (t.seq, t.tmr, t.tbRestarts)) (exec .acq (flight 0x200000000000 .configWritten 1 0xC163)) =
      some (.settling, 17, 1) := by decide
theorem test_acq_answers_with_gain_tag :
    got State.rsps (exec .acq
      { flight 0x200000000000 .resultReady 3 0xCB83 with res := 0x7FFF, resg := 5 }) = some [0x57FFF] := by decide
theorem test_rdch : seen (exec (.rdch 1) (at_ 0x40E1)) = some ([], 0xD1E1, [], .issue) := by decide
theorem test_rdch_refused : seen (exec (.rdch 4) State.reset) = some ([0x100000000], 0x4183, [], .idle) := by decide
theorem test_rddf : seen (exec (.rddf 0) State.reset) = some ([], 0x8183, [], .issue) := by decide
theorem test_rddf_writes :
    seen (exec (.rddf 0) (flight 0x220000000000 .issue 0 0x8183)) =
      some ([], 0x8183, wr 1 0x81 0x83, .configWritten) := by decide

/-! ### Continuous mode (95_test_vectors.md 2.4) -/

theorem test_cont_forces_queue : seen (exec .cont (at_ 0x4380)) = some ([], 0x4283, [], .issue) := by decide
theorem test_cont_keeps_start_flag : seen (exec .cont (at_ 0xC183)) = some ([], 0xC083, [], .issue) := by decide
theorem test_getlast_reads :
    seen (exec .getlast { flight 0x290000000000 .issue 0 0x4183 with rx := [0xDE, 0xAD] }) =
      some ([], 0x4183, rd 0xDE 0xAD, .resultReady) := by decide
theorem test_getlast_answers :
    got State.rsps (exec .getlast
      { flight 0x290000000000 .resultReady 1 0x4483 with res := 0xFFF0, resg := 2 }) = some [0x2FFF0] := by decide

/-! ### Comparator (95_test_vectors.md 2.5) -/

theorem test_cmpch_low :
    seen (exec (.cmpch 1 3) (flight 0x300100030000 .issue 0 0x5183)) =
      some ([], 0x5183, wr 2 0x00 0x00, .issue) := by decide
theorem test_cmpch_config :
    seen (exec (.cmpch 1 3) (flight 0x300100030000 .issue 2 0x5183)) =
      some ([], 0x5083, wr 1 0x50 0x83, .configWritten) := by decide
theorem test_cmpchl_low_as_given :
    seen (exec (.cmpchl 2 10 20) (flight 0x3102000A0014 .issue 0 0x6183)) =
      some ([], 0x6183, wr 2 0x00 0x14, .issue) := by decide
theorem test_cmpchl_high :
    seen (exec (.cmpchl 0 1000 900) (flight 0x310003E80384 .issue 1 0x4183)) =
      some ([], 0x4183, wr 3 0x03 0xE8, .issue) := by decide
theorem test_cmpdf_low :
    seen (exec (.cmpdf 0 100) (flight 0x320000640000 .issue 0 0x0183)) =
      some ([], 0x0183, wr 2 0x00 0x5F, .issue) := by decide
theorem test_cmpdfl_refused : seen (exec (.cmpdfl 4 1 2) State.reset) = some ([0x100000000], 0x4183, [], .idle) := by decide
theorem test_cmpdfl_target : seen (exec (.cmpdfl 3 0x0200 0x0100) State.reset) = some ([], 0x3183, [], .issue) := by decide
theorem test_clrlatch_reads :
    got (fun t => (t.res, t.bus))
      (exec .clrlatch { flight 0x380000000000 .issue 0 0x5084 with rx := [0x00, 0x07] }) =
      some (7, rd 0x00 0x07) := by decide
theorem test_clrlatch_returns_no_code :
    got State.rsps (exec .clrlatch { flight 0x380000000000 .resultReady 1 0x5084 with res := 7 }) = some [0] := by decide

/-! ### Steps (95_test_vectors.md 2.3, 2.6, 2.7) -/

theorem test_step_reserved :
    seen (step (State.reset.withFetchWord 48 0x06FFFFFFFFFF)) = some ([0x200000000], 0x4183, [], .idle) := by decide
theorem test_step_ignored_fields :
    seen (step (State.reset.withFetchWord 48 0x1303ABCD1234)) = some ([0], 0x4163, [], .idle) := by decide
theorem test_step_strapped_address :
    got State.bus (step { flight 0x200000000000 .issue 0 0xC183 with addr := 0x4A }) =
      some [.bt 0x4A, .w 0x01, .w 0xC1, .w 0x83, .et] := by decide
theorem test_step_tick_stops_at_zero :
    got State.tmr (step { flight 0x200000000000 .settling 2 0xC183 with sched := [.tick] }) = some 0 := by decide
theorem test_step_settling_takes_no_command :
    got (fun t => (t.cmds, t.tmr))
      (step { flight 0x200000000000 .settling 2 0xC183 with tmr := 9, cmds := [0x130300000000] }) =
      some ([0x130300000000], 8) := by decide
theorem test_step_reset_drops_the_pending_read :
    seen (step { flight 0x200000000000 .settling 2 0xC183 with tmr := 9, sched := [.reset 6] }) =
      some ([], 0x4183, [], .idle) := by decide
theorem test_step_reset_cuts_a_read_at_its_last_byte :
    got (fun t => (t.bus, t.busCut, t.res))
      (step { settlingRead with rx := [0x12, 0x34], sched := [.reset 5] }) =
      some ([.bt 0x48, .w 0, .et, .rq 0x48 2, .rb 0x12], true, 0) := by decide
theorem test_step_stalled_write_keeps_its_phase :
    got (fun t => (t.bus, t.stalled, t.seq, t.lastwValid))
      (step { flight 0x200000000000 .issue 0 0xC183 with sched := [.stall 4] }) =
      some (wr 1 0xC1 0x83, true, .issue, false) := by decide
theorem test_step_stalled_comparator_has_set_mode :
    seen (step { flight 0x300100030000 .issue 2 0x5183 with sched := [.stall 2] }) =
      some ([], 0x5083, [.bt 0x48, .w 0x01, .w 0x50], .issue) := by decide
theorem test_step_stalled_read_waits :
    got (fun t => (t.bus, t.seq, t.rsps))
      (step { settlingRead with stalled := true, rx := [0x12, 0x34] }) =
      some ([], .settling, []) := by decide
theorem test_step_reset_ends_a_stall :
    got (fun t => (t.seq, t.stalled, t.busCut, t.rsps))
      (step { settlingRead with stalled := true, sched := [.reset 0] }) =
      some (.idle, false, true, []) := by decide
theorem test_step_reset_cuts_a_write :
    got State.bus (step { flight 0x200000000000 .issue 0 0xC183 with sched := [.reset 2] }) =
      some [.bt 0x48, .w 0x01] := by decide

/-! ### Witnesses: for every obligation with hypotheses, states and operands that meet them, at each clause's boundary -/

/-- A state in IDLE whose next move is the sequencer's, with the commands `ws` offered. -/
def offer (ws : List Cmd) : State := { State.reset with cmds := ws }

/-- IDLE in continuous mode, the device told so. -/
def contIdle : State :=
  { at_ 0x4083 with lastw := 0x4083, lastwValid := true }

/-- ACQ in flight, settling, with `n` milliseconds to go. -/
def settling (n : BitVec 7) : State :=
  { flight 0x200000000000 .settling 2 0xC183 with tmr := n, lastw := 0xC183, lastwValid := true }

theorem witness_EncodeOfDecodeKeepsTheReadFields : decode 0x1303ABCD1234 = .instr (.setrate 3) := by decide
theorem witness_ReservedOpcodesAreTheUnlistedOnes :
    decode 0x06FFFFFFFFFF = .reserved 0x06 ∧ decode 0x380000000000 = .instr .clrlatch := by decide
theorem witness_AssemblerLinesEncode : ((0 : Int) ≤ 0 ∧ (0 : Int) ≤ 255) ∧ ((0 : Int) ≤ 255 ∧ (255 : Int) ≤ 255) := by
  decide
theorem witness_PackingIsABijection : (Codec.decode 0x0C00).valid = false ∧ (Codec.decode 0x0A00).valid = true := by
  decide
theorem witness_OneFieldMovesOnlyItsOwnBits : Codec.encode (Codec.decode 0x4183) = Codec.encode (Codec.decode 0x4183) :=
  rfl
theorem witness_DelayTable : (7 : Byte).toNat ≤ 7 ∧ 7 < (8 : Byte).toNat := by decide
theorem witness_ScaleTable : (5 : Byte).toNat ≤ 5 ∧ 5 < (6 : Byte).toNat := by decide
theorem witness_MillivoltProductIsExact : 5 < (6 : Byte).toNat := by decide
theorem witness_TargetToMultiplexerCode :
    Config.standard.muxCh[(3 : Byte).toNat]? = some 7 ∧ 3 < (4 : Byte).toNat ∧ (3 : Byte).toNat ≤ 3 := by decide
theorem witness_LowThresholdIsClampedSubtraction : (4 : Word).toNat < 5 ∧ 5 ≤ (5 : Word).toNat := by decide
theorem witness_ResponseWordLayout :
    (offer [0x010000000000]).resetNext = false ∧
      step (offer [0x010000000000]) = .next (stepTo (offer [0x010000000000])) := ⟨rfl, rfl⟩
theorem witness_ResultValueLayout :
    ((flight 0x210300000000 .resultReady 3 0xF183).seq = .resultReady ∧
      (flight 0x210300000000 .resultReady 3 0xF183).upc = 3) ∧
    ((flight 0x290000000000 .resultReady 1 0x4483).seq = .resultReady ∧
      (flight 0x290000000000 .resultReady 1 0x4483).upc = 1) := by decide
theorem witness_EncAnswersThePackedSession :
    (0x01FFFFFFFFFF : Cmd).extractLsb' 40 8 = 0x01#8 ∧ State.reset.seq = .idle ∧ contIdle.seq = .idle := by decide
theorem witness_FldAnswersOneField :
    (0x0208FFFF0000 : Cmd).extractLsb' 40 8 = 0x02#8 ∧ State.reset.seq = .idle ∧
      (8 : Byte).toNat ≤ 8 ∧ 8 < (9 : Byte).toNat := by decide
theorem witness_DlyAnswersTheDelay :
    (0x03FF00000000 : Cmd).extractLsb' 40 8 = 0x03#8 ∧ State.reset.seq = .idle := by decide
theorem witness_SclAnswersTheScale :
    (0x040600000000 : Cmd).extractLsb' 40 8 = 0x04#8 ∧ State.reset.seq = .idle := by decide
theorem witness_MvAnswersTheProduct :
    (0x050080000000 : Cmd).extractLsb' 40 8 = 0x05#8 ∧ State.reset.seq = .idle := by decide

/-- Both regimes of a setter, its two steps in flight, the largest operand of each and the least refused one. -/
theorem witness_SettersFollowTheirTemplate :
    (State.reset.seq = .idle ∧ State.reset.sess.mode = State.reset.cfg.modeSingle) ∧
    (contIdle.seq = .idle ∧ contIdle.sess.mode ≠ contIdle.cfg.modeSingle) ∧
    ((3 : Byte).toNat ≤ 3 ∧ (7 : Byte).toNat ≤ 7 ∧ (1 : Byte).toNat ≤ 1) ∧
    (isSetter (.setch 4) = true ∧ isSetter (.setcque 3) = true) ∧
    ((flight 0x100400000000 .issue 0 0x4083).seq = .issue ∧ (flight 0x100400000000 .issue 0 0x4083).upc = 0) ∧
    ((flight 0x100400000000 .configWritten 1 0x4083).seq = .configWritten ∧
      (flight 0x100400000000 .configWritten 1 0x4083).upc = 1) ∧
    (isSetter (.setdf 4) = true ∧ refused (.setdf 4) = true ∧ refused (.setgain 8) = true ∧
      refused (.setrate 8) = true ∧ refused (.setcmode 2) = true ∧ refused (.setcpol 2) = true ∧
      refused (.setclat 2) = true ∧ refused (.setcque 4) = true ∧ refused (.setch 4) = false) ∧
    ((0x100000000000 : Cmd).extractLsb' 40 8 = 0x10#8 ∧ (0x110000000000 : Cmd).extractLsb' 40 8 = 0x11#8 ∧
      (0x120000000000 : Cmd).extractLsb' 40 8 = 0x12#8 ∧ (0x130000000000 : Cmd).extractLsb' 40 8 = 0x13#8 ∧
      (0x140000000000 : Cmd).extractLsb' 40 8 = 0x14#8 ∧ (0x150000000000 : Cmd).extractLsb' 40 8 = 0x15#8 ∧
      (0x160000000000 : Cmd).extractLsb' 40 8 = 0x16#8 ∧ (0x170000000000 : Cmd).extractLsb' 40 8 = 0x17#8) := by
  decide

theorem witness_RefusedCommandsChangeNothing :
    State.reset.seq = .idle ∧ refused (.fld 9 0) = true ∧ refused (.rdch 4) = true ∧ refused (.rddf 255) = true ∧
      refused (.cmpch 4 0) = true ∧ refused (.cmpdfl 4 1 2) = true := by decide
theorem witness_ValidRangesAreThoseOfTheTable : fallsBack (.setch 4) = true ∧ fallsBack (.setdf 4) = false := by decide

theorem witness_AcqMicroSequence :
    State.reset.seq = .idle ∧
    ((flight 0x200000000000 .issue 0 0xC183).seq = .issue ∧ (flight 0x200000000000 .issue 0 0xC183).upc = 0) ∧
    ((flight 0x200000000000 .configWritten 1 0xC183).seq = .configWritten ∧
      (flight 0x200000000000 .configWritten 1 0xC183).upc = 1) ∧
    ((settling 1).seq = .settling ∧ (settling 1).tmr ≠ 0) ∧
    ((settling 0).seq = .settling ∧ (settling 0).upc = 2 ∧ (settling 0).tmr = 0) ∧
    ((flight 0x200000000000 .resultReady 3 0xC183).seq = .resultReady ∧
      (flight 0x200000000000 .resultReady 3 0xC183).upc = 3) ∧
    (0x2000FFFF0000 : Cmd).extractLsb' 40 8 = 0x20#8 := by decide

theorem witness_RdchAcceptsAChannel :
    State.reset.seq = .idle ∧ State.reset.cfg.muxCh[(3 : Byte).toNat]? = some 7 ∧ 3 < (4 : Byte).toNat ∧
      (settling 0).seq ≠ .idle ∧ (0x210300000000 : Cmd).extractLsb' 40 8 = 0x21#8 := by decide
theorem witness_RddfAcceptsAPair :
    State.reset.seq = .idle ∧ State.reset.cfg.muxDiff[(3 : Byte).toNat]? = some 3 ∧ 3 < (4 : Byte).toNat ∧
      (settling 0).seq ≠ .idle ∧ (0x220300000000 : Cmd).extractLsb' 40 8 = 0x22#8 := by decide

theorem witness_TickCountsOnlyInSettling :
    (settling 1).seq = .settling ∧ (settling 1).tmr ≠ 0 ∧
      ({ settling 1 with sched := [.tick] } : State).sched = .tick :: [] ∧
      ¬ ((settling 0).seq = .settling ∧ (settling 0).tmr ≠ 0) ∧
      ¬ (State.reset.seq = .settling ∧ State.reset.tmr ≠ 0) := by decide

/-- Two ticks and a sequencer move among three milliseconds. -/
theorem witness_SettlingOutlastsEveryShorterRunOfTicks :
    (settling 3).seq = .settling ∧ (∃ i, decode (settling 3).cur = .instr i) ∧
      ({ settling 3 with sched := [.tick, .sequencer, .tick] } : State).sched =
        [.tick, .sequencer, .tick] ++ [] ∧
      (∀ m ∈ [Move.tick, .sequencer, .tick], m = .tick ∨ m = .sequencer) ∧
      [Move.tick, .sequencer, .tick].count .tick < (settling 3).tmr.toNat :=
  ⟨rfl, ⟨.acq, by decide⟩, rfl, by decide, by decide⟩

/-- A schedule with every kind of move that is no reset. -/
theorem witness_AcquisitionGainTagIsTheGainAtAccept :
    (offer [0x210300000000]).seq = .idle ∧
      (offer [0x210300000000]).cmds = 0x210300000000 :: [] ∧ decode 0x210300000000 = .instr (.rdch 3) ∧
      (3 : Byte).toNat ≤ 3 ∧
      ({ offer [0x210300000000] with
          sched := [.tick, .sequencer, .strap 2, .sequencer, .host 0x010000000000, .stall 4] } : State).sched =
        [.tick, .sequencer, .strap 2, .sequencer, .host 0x010000000000, .stall 4] ++ [] ∧
      (∀ m ∈ [Move.tick, .sequencer, .strap 2, .sequencer, .host 0x010000000000, .stall 4], ∀ n, m ≠ .reset n) :=
  ⟨rfl, rfl, by decide, by decide, rfl, by simp⟩

theorem witness_AcquisitionInTheDefaultOrder :
    (offer [0x210300000000]).seq = .idle ∧ (offer [0x210300000000]).stalled = false ∧
      (offer [0x210300000000]).sched = [] ∧ (offer [0x210300000000]).cmds = 0x210300000000 :: [] ∧
      decode 0x210300000000 = .instr (.rdch 3) ∧ (3 : Byte).toNat ≤ 3 := by decide

theorem witness_ContMicroSequence :
    State.reset.seq = .idle ∧
    ((flight 0x280000000000 .issue 0 0x4083).seq = .issue ∧ (flight 0x280000000000 .issue 0 0x4083).upc = 0) ∧
    ((flight 0x280000000000 .configWritten 1 0x4083).seq = .configWritten ∧
      (flight 0x280000000000 .configWritten 1 0x4083).upc = 1) ∧
    (0x280000000000 : Cmd).extractLsb' 40 8 = 0x28#8 := by decide
theorem witness_GetlastMicroSequence :
    contIdle.seq = .idle ∧
    ((flight 0x290000000000 .issue 0 0x4083).seq = .issue ∧ (flight 0x290000000000 .issue 0 0x4083).upc = 0) ∧
    ((flight 0x290000000000 .resultReady 1 0x4083).seq = .resultReady ∧
      (flight 0x290000000000 .resultReady 1 0x4083).upc = 1) ∧
    (0x290000000000 : Cmd).extractLsb' 40 8 = 0x29#8 := by decide
theorem witness_ClrlatchMicroSequence :
    contIdle.seq = .idle ∧
    ((flight 0x380000000000 .issue 0 0x4083).seq = .issue ∧ (flight 0x380000000000 .issue 0 0x4083).upc = 0) ∧
    ((flight 0x380000000000 .resultReady 1 0x4083).seq = .resultReady ∧
      (flight 0x380000000000 .resultReady 1 0x4083).upc = 1) ∧
    (0x380000000000 : Cmd).extractLsb' 40 8 = 0x38#8 := by decide

theorem witness_ComparatorStartMicroSequences :
    (State.reset.seq = .idle ∧ 3 < (4 : Byte).toNat) ∧
    (State.reset.cfg.muxCh[(3 : Byte).toNat]? = some 7 ∧ State.reset.cfg.muxDiff[(3 : Byte).toNat]? = some 3) ∧
    ((flight 0x300100030000 .issue 0 0x5183).seq = .issue ∧ (flight 0x300100030000 .issue 0 0x5183).upc = 0 ∧
      (flight 0x300100030000 .issue 1 0x5183).upc = 1 ∧ (flight 0x300100030000 .issue 2 0x5183).upc = 2) ∧
    ((flight 0x300100030000 .configWritten 3 0x5083).seq = .configWritten ∧
      (flight 0x300100030000 .configWritten 3 0x5083).upc = 3) ∧
    ((0x300100030000 : Cmd).extractLsb' 40 8 = 0x30#8 ∧ (0x310003E80384 : Cmd).extractLsb' 40 8 = 0x31#8 ∧
      (0x320000640000 : Cmd).extractLsb' 40 8 = 0x32#8 ∧ (0x330302000100 : Cmd).extractLsb' 40 8 = 0x33#8) := by decide

theorem witness_StepRunsTheDecodedCommand :
    (nextMove (offer [0x200000000000]) = .sequencer ∧ (offer [0x200000000000]).seq = .idle ∧
      (offer [0x200000000000]).cmds = 0x200000000000 :: [] ∧ decode 0x200000000000 = .instr .acq) ∧
    (nextMove (offer [0x230000000000]) = .sequencer ∧ decode 0x230000000000 = .reserved 0x23) ∧
    (nextMove (offer []) = .sequencer ∧ (offer []).cmds = []) ∧
    (nextMove (settling 0) = .sequencer ∧ (settling 0).seq ≠ .idle ∧ (settling 0).stalled = false ∧
      decode (settling 0).cur = .instr .acq) ∧
    (nextMove { settling 0 with stalled := true } = .sequencer ∧
      ({ settling 0 with stalled := true } : State).stalled = true) := by
  decide

theorem witness_MovesAreTakenInScheduleOrder :
    ({ State.reset with sched := [.strap 2] } : State).sched = .strap 2 :: [] ∧
    ((settling 1).sched = [] ∧ (settling 1).seq = .settling ∧ (settling 1).tmr ≠ 0) ∧
    ((settling 0).sched = [] ∧ ¬ ((settling 0).seq = .settling ∧ (settling 0).tmr ≠ 0)) := by decide

theorem witness_PlacedWordRunsNext : decodeTableWord 48 0x310003E80384 = some (.cmpchl 0 1000 900) := by decide

theorem witness_PhaseChangesAreThoseOfTheTable :
    (settling 0).InStep ∧ step (settling 0) = .next (stepTo (settling 0)) ∧
      State.reset.InStep ∧ step State.reset = .next (stepTo State.reset) :=
  ⟨.inr ⟨.acq, by decide, rfl⟩, rfl, .inl rfl, rfl⟩

theorem witness_AddressAndParametersChangeOnlyAtReset :
    (State.reset.resetNext = false ∧ step State.reset = .next (stepTo State.reset)) ∧
    (({ State.reset with addrSel := 3, sched := [.reset 0] } : State).resetNext = true ∧
      step { State.reset with addrSel := 3, sched := [.reset 0] } =
        .next (stepTo { State.reset with addrSel := 3, sched := [.reset 0] })) ∧
    (∀ l, nextMove State.reset ≠ .strap l) :=
  ⟨⟨rfl, rfl⟩, ⟨rfl, rfl⟩, fun _ h => by cases h⟩

/-- A CONT accepted, in which MODE and CQUE change; an ACQ, in which MODE and OS do. -/
theorem witness_FieldsAreWrittenOnlyByTheirCommands :
    ({ at_ 0x4180 with cmds := [0x280000000000] } : State).resetNext = false ∧
    step { at_ 0x4180 with cmds := [0x280000000000] } =
      .next (stepTo { at_ 0x4180 with cmds := [0x280000000000] }) ∧
    (stepTo { at_ 0x4180 with cmds := [0x280000000000] }).sess.cque ≠ (at_ 0x4180).sess.cque ∧
    (stepTo { at_ 0x4180 with cmds := [0x280000000000] }).sess.mode ≠ (at_ 0x4180).sess.mode :=
  ⟨rfl, rfl, by decide, by decide⟩

/-- Each of the other fields is changed by some step: CLAT, CPOL, CMODE, RATE, GAIN, MUX, OS. -/
theorem witness_FieldsAreWrittenOnlyByTheirCommands_each :
    (stepTo (offer [0x160100000000])).sess.clat ≠ (offer [0x160100000000]).sess.clat ∧
    (stepTo (offer [0x150100000000])).sess.cpol ≠ (offer [0x150100000000]).sess.cpol ∧
    (stepTo (offer [0x140100000000])).sess.cmode ≠ (offer [0x140100000000]).sess.cmode ∧
    (stepTo (offer [0x130300000000])).sess.rate ≠ (offer [0x130300000000]).sess.rate ∧
    (stepTo (offer [0x120200000000])).sess.gain ≠ (offer [0x120200000000]).sess.gain ∧
    (stepTo (offer [0x100200000000])).sess.mux ≠ (offer [0x100200000000]).sess.mux ∧
    (stepTo (offer [0x200000000000])).sess.os ≠ (offer [0x200000000000]).sess.os := by decide

theorem witness_StartFlagIsClearedOnlyByReset :
    (settling 0).resetNext = false ∧ step (settling 0) = .next (stepTo (settling 0)) ∧ (settling 0).sess.os = 1 :=
  ⟨rfl, rfl, by decide⟩

/-- An ACQ accepted in continuous mode, and a reset met in it. -/
theorem witness_ContinuousModeIsLeftOnlyByAcquisitionOrReset :
    (step { contIdle with cmds := [0x200000000000] } = .next (stepTo { contIdle with cmds := [0x200000000000] }) ∧
      contIdle.sess.mode = contIdle.cfg.modeCont ∧
      (stepTo { contIdle with cmds := [0x200000000000] }).sess.mode ≠ contIdle.cfg.modeCont) ∧
    (step { contIdle with sched := [.reset 0] } = .next (stepTo { contIdle with sched := [.reset 0] }) ∧
      (stepTo { contIdle with sched := [.reset 0] }).sess.mode ≠ contIdle.cfg.modeCont) :=
  ⟨⟨rfl, by decide, by decide⟩, rfl, by decide⟩

theorem witness_ResultAndGhostRegistersChangeOnlyWithTheirAccess :
    ((settling 0).resetNext = false ∧ step (settling 0) = .next (stepTo (settling 0))) ∧
    ((flight 0x280000000000 .issue 0 0x4083).resetNext = false ∧
      step (flight 0x280000000000 .issue 0 0x4083) = .next (stepTo (flight 0x280000000000 .issue 0 0x4083))) :=
  ⟨⟨rfl, rfl⟩, rfl, rfl⟩

theorem witness_StepPerformsAtMostOneWholeTransaction :
    ((settling 0).resetNext = false ∧ (settling 0).busCut = false ∧
      step (settling 0) = .next (stepTo (settling 0))) ∧
    (({ settling 0 with sched := [.stall 5] } : State).resetNext = false ∧
      step { settling 0 with sched := [.stall 5] } = .next (stepTo { settling 0 with sched := [.stall 5] })) :=
  ⟨⟨rfl, rfl, rfl⟩, rfl, rfl⟩

theorem witness_CommandsAreTakenOnlyInIdle :
    step (offer [0x200000000000]) = .next (stepTo (offer [0x200000000000])) ∧
    step { settling 0 with cmds := [0x130300000000] } =
      .next (stepTo { settling 0 with cmds := [0x130300000000] }) ∧
    (settling 0).seq ≠ .idle ∧ (stepTo { settling 0 with cmds := [0x130300000000] }).seq ≠ .idle :=
  ⟨rfl, rfl, by decide, by decide⟩

theorem witness_TimerIsWrittenOnlyBySettleTickAndReset :
    step (settling 1) = .next (stepTo (settling 1)) ∧
    step { settling 1 with sched := [.reset 0] } = .next (stepTo { settling 1 with sched := [.reset 0] }) ∧
    step (flight 0x200000000000 .configWritten 1 0xC183) =
      .next (stepTo (flight 0x200000000000 .configWritten 1 0xC183)) := ⟨rfl, rfl, rfl⟩

theorem witness_InstructionsTouchNoPortInput :
    ∃ t, exec .acq State.reset = .next t := ⟨_, rfl⟩

/-- A reset scheduled in the middle of a write, one before any primitive, one in IDLE. -/
theorem witness_ResetInARunGivesTheResetState :
    ({ flight 0x280000000000 .issue 0 0x4083 with sched := [.reset 2] } : State).sched = .reset 2 :: [] ∧
    ({ flight 0x280000000000 .issue 0 0x4083 with sched := [.reset 0] } : State).sched = .reset 0 :: [] ∧
    ({ contIdle with sched := [.reset 3] } : State).seq = .idle := ⟨rfl, rfl, rfl⟩

/-- A write, and a conversion read. -/
theorem witness_ResetCutsATransactionToAStrictPrefix :
    ((flight 0x280000000000 .issue 0 0x4083).seq ≠ .idle ∧
      (flight 0x280000000000 .issue 0 0x4083).stalled = false ∧
      (flight 0x280000000000 .issue 0 0x4083).busCut = false ∧
      ∃ u, sequencerStep (flight 0x280000000000 .issue 0 0x4083) = .next u) ∧
    ((settling 0).seq ≠ .idle ∧ (settling 0).stalled = false ∧ (settling 0).busCut = false ∧
      ∃ u, sequencerStep (settling 0) = .next u) :=
  ⟨⟨by decide, rfl, rfl, _, rfl⟩, by decide, rfl, rfl, _, rfl⟩

/-- The clauses of the stall: a write and a read it meets; a stalled read, a run over a tick; its reset. -/
theorem witness_StalledPrimitiveHoldsArcsUntilReset :
    ((flight 0x280000000000 .issue 0 0x4083).seq ≠ .idle ∧
      (flight 0x280000000000 .issue 0 0x4083).stalled = false ∧
      (flight 0x280000000000 .issue 0 0x4083).busCut = false ∧
      ∃ u, sequencerStep (flight 0x280000000000 .issue 0 0x4083) = .next u) ∧
    (({ settling 0 with stalled := true, sched := [.tick] } : State).stalled = true ∧
      (settling 0).seq ≠ .idle ∧ (settling 0).tmr = 0 ∧
      ∀ m ∈ ({ settling 0 with stalled := true, sched := [.tick] } : State).sched.take 3, ∀ k, m ≠ .reset k) ∧
    (({ settling 0 with stalled := true, sched := [.reset 0] } : State).stalled = true ∧
      ({ settling 0 with stalled := true, sched := [.reset 0] } : State).sched = .reset 0 :: []) :=
  ⟨⟨by decide, rfl, rfl, _, rfl⟩, ⟨rfl, by decide, rfl, by simp⟩, rfl, rfl⟩

/-- A write after a cut, and a reset that cuts a write. -/
theorem witness_TraceAfterACutIsUnconstrained :
    (({ flight 0x280000000000 .issue 0 0x4083 with busCut := true } : State).busCut = true ∧
      step { flight 0x280000000000 .issue 0 0x4083 with busCut := true } =
        .next (stepTo { flight 0x280000000000 .issue 0 0x4083 with busCut := true })) ∧
    (({ flight 0x280000000000 .issue 0 0x4083 with sched := [.reset 2] } : State).busCut = false ∧
      step { flight 0x280000000000 .issue 0 0x4083 with sched := [.reset 2] } =
        .next (stepTo { flight 0x280000000000 .issue 0 0x4083 with sched := [.reset 2] }) ∧
      (stepTo { flight 0x280000000000 .issue 0 0x4083 with sched := [.reset 2] }).busCut = true) :=
  ⟨⟨rfl, rfl⟩, rfl, rfl, rfl⟩

theorem witness_PowerOnResetState : Config.standard.ok = true := by decide
theorem witness_InvariantHoldsAtReset : Config.standard.ok = true := by decide

/-- An acquisition in flight meets the invariant, and so does continuous mode at rest. -/
theorem settling_inv : (settling 9).Inv :=
  ⟨by decide, .inr ⟨.acq, by decide, rfl⟩, ⟨fun h => absurd rfl h, by decide⟩,
    ⟨fun _ => ⟨rfl, by decide⟩, fun h => by simp [settling, flight] at h, fun h => by simp [settling, flight] at h⟩,
    fun h => absurd h (by decide)⟩

theorem contIdle_inv : contIdle.Inv :=
  ⟨by decide, .inl rfl, ⟨fun _ => rfl, by decide⟩,
    ⟨fun _ => ⟨rfl, by decide⟩, fun _ _ => ⟨rfl, by decide⟩,
      fun h => by simp [contIdle, at_, State.reset, State.initial] at h⟩,
    fun h => absurd h (by decide)⟩

/-- A read whose low byte never comes meets it too. -/
theorem stalled_inv : (stepTo { settling 0 with rx := [0x12], sched := [.stall 5] }).Inv :=
  ⟨by decide, .inr ⟨.acq, by decide, rfl⟩, ⟨fun h => absurd rfl h, by decide⟩,
    ⟨fun _ => ⟨rfl, by decide⟩, fun h => by simp [stepTo, settling, flight] at h; exact absurd h (by decide),
      fun h => absurd h (by decide)⟩,
    fun _ => by decide⟩

theorem witness_EveryStepKeepsTheInvariant :
    (settling 9).Inv ∧ step (settling 9) = .next (stepTo (settling 9)) := ⟨settling_inv, rfl⟩

theorem witness_ContinuousModeIsCoherentAtRest :
    (contIdle.Inv ∧ Host.Core.run Sys2Proof.core 0 contIdle = .next contIdle ∧
      contIdle.seq = .idle ∧ contIdle.sess.mode = contIdle.cfg.modeCont) ∧
    ((settling 9).Inv ∧ Host.Core.run Sys2Proof.core 1 (settling 9) = .next (stepTo (settling 9))) :=
  ⟨⟨contIdle_inv, rfl, rfl, by decide⟩, settling_inv, rfl⟩

theorem witness_NoStepStopsTheMachine : (settling 9).InStep := settling_inv.2.1

theorem witness_EveryCommandRunsToItsResponse :
    (offer [0x310003E80384]).seq = .idle ∧ (offer [0x310003E80384]).stalled = false ∧ (offer [0x310003E80384]).sched = [] ∧
      (offer [0x310003E80384]).cmds = 0x310003E80384 :: [] ∧
      decode 0x310003E80384 = .instr (.cmpchl 0 1000 900) ∧
      ({ offer [0x290000000000] with rx := [0x12, 0x34] } : State).rx[0]? = some 0x12 ∧
      ({ offer [0x290000000000] with rx := [0x12, 0x34] } : State).rx[1]? = some 0x34 := by decide

theorem witness_CommandInFlightReturnsToIdle :
    (settling 9).seq ≠ .idle ∧ (settling 9).stalled = false ∧ (settling 9).InStep ∧ (settling 9).TimerBounded ∧
      (settling 9).sched = [] :=
  ⟨by decide, rfl, settling_inv.2.1, settling_inv.2.2.1, rfl⟩

/-- A state that has read one code and is to read another, against one with other bytes in both places. -/
theorem witness_ReadBytesReachOnlyResultsAndResponses :
    State.SameButForReads
      { settling 0 with res := 0x1234, bus := rd 0x12 0x34, rsps := [rspWord .ok 0x1234], rx := [1, 2] }
      { settling 0 with
        res := 0x5678, bus := rd 0x56 0x78, rsps := [rspWord .ok 0x5678], rx := [], freeIdx := 7 } ∧
    ({ settling 0 with
        res := 0x1234, bus := rd 0x12 0x34, rsps := [rspWord .ok 0x1234], rx := [1, 2] } : State).resetNext = false ∧
    step { settling 0 with res := 0x1234, bus := rd 0x12 0x34, rsps := [rspWord .ok 0x1234], rx := [1, 2] } =
      .next (stepTo
        { settling 0 with res := 0x1234, bus := rd 0x12 0x34, rsps := [rspWord .ok 0x1234], rx := [1, 2] }) ∧
    (∀ i, (flight 0x280000000000 .issue 0 0x4083).acting = some i → returnsCode i = false) := by
  refine ⟨⟨rfl, fun _ => ⟨rfl, rfl⟩, .cons (by decide) .nil, fun _ => ?_⟩, rfl, rfl, ?_⟩
  · refine .cons rfl (.cons rfl (.cons rfl (.cons rfl (.cons trivial (.cons trivial .nil)))))
  · intro i h
    have : some Instr.cont = some i := h
    cases this
    rfl

end Sys2Proof.Tests
end

/-! SUPPORT. The scope of a step (00_scope.md): which move is made, which command it runs, and what every move leaves
of the offered commands and of CUR. -/

namespace Sys2Proof.Machine

/-! ### The move taken off the schedule -/

theorem sched_tail_of_nil {s : State} (h : s.sched = []) : { s with sched := s.sched.tail } = s := by
  cases s
  cases h
  rfl

theorem step_of_sched_cons {s : State} {m : Move} {r : List Move} (h : s.sched = m :: r) :
    step s = applyMove m { s with sched := r } := by
  rw [step_eq, nextMove_cons h, h, List.tail_cons]

theorem step_of_sched_nil {s : State} (h : s.sched = []) : step s = applyMove (nextMove s) s := by
  rw [step_eq, sched_tail_of_nil h]

theorem step_of_nextMove_sequencer {s : State} (h : nextMove s = .sequencer) :
    step s = sequencerStep { s with sched := s.sched.tail } := by
  rw [step_eq, h]
  rfl

theorem tick_of_waiting {s : State} (hw : s.waiting) : tick s = { s with tmr := s.tmr - 1 } := if_pos hw

/-! ### The cases of a sequencer step -/

theorem sequencerStep_accept {s : State} {w : Cmd} {rest : List Cmd} {i : Instr} (hs : s.seq = .idle)
    (hc : s.cmds = w :: rest) (hd : decode w = .instr i) : sequencerStep s = exec i (latch w rest s) := by
  simp [sequencerStep, hs, hc, hd]

theorem sequencerStep_reserved {s : State} {w : Cmd} {rest : List Cmd} {op : Byte} (hs : s.seq = .idle)
    (hc : s.cmds = w :: rest) (hd : decode w = .reserved op) :
    sequencerStep s = .next (execReserved (latch w rest s)) := by
  simp [sequencerStep, hs, hc, hd]

theorem sequencerStep_none_offered {s : State} (hs : s.seq = .idle) (hc : s.cmds = []) :
    sequencerStep s = .next s := by
  simp [sequencerStep, hs, hc]

theorem sequencerStep_in_flight {s : State} {i : Instr} (hs : s.seq ≠ .idle) (hst : s.stalled = false)
    (hd : decode s.cur = .instr i) : sequencerStep s = exec i s := by
  simp [sequencerStep, hs, hst, hd]

theorem sequencerStep_stalled {s : State} (hs : s.seq ≠ .idle) (hst : s.stalled = true) :
    sequencerStep s = .next s := by
  simp [sequencerStep, hs, hst]

/-- The answer to a reserved opcode: CUR and UPC, which the latch wrote, are unspecified again. -/
theorem execReserved_latch_answers (w : Cmd) (rest : List Cmd) (s : State) :
    Answers { s with cmds := rest } (rspWord .reserved 0) (execReserved (latch w rest s)) := rfl

/-- A table word of full width decodes as the command word it is. -/
theorem decode_of_decodeTableWord {w : Nat} {i : Instr} (h : decodeTableWord 48 w = some i) :
    decode (BitVec.ofNat 48 (w % 2 ^ 48)) = .instr i := by
  unfold decodeTableWord at h
  split at h
  · next hd => rwa [← Option.some.inj h]
  · cases h

theorem ofNat_mod_two_pow (n w : Nat) : BitVec.ofNat n (w % 2 ^ n) = BitVec.ofNat n w :=
  BitVec.eq_of_toNat_eq (by simp)

/-! ### The offered commands and CUR -/

theorem acceptOf_cmds (i : Instr) (s : State) : (acceptOf i s).cmds = s.cmds := by
  obtain ⟨S', ⟨st, v, _, h⟩ | h⟩ := acceptOf_shape i s <;> rw [h] <;> rfl

theorem readConv_cmds (s : State) : (readConv s).cmds = s.cmds := by
  obtain ⟨_, _, h, _⟩ := readConv_spec s
  rw [h]

theorem readConv_cur (s : State) : (readConv s).cur = s.cur := by
  obtain ⟨_, _, h, _⟩ := readConv_spec s
  rw [h]

theorem MicroOp.run_cmds (op : MicroOp) (s : State) : (op.run s).cmds = s.cmds := by
  cases op with
  | readConv => exact readConv_cmds s
  | writeConfig | contWriteConfig | writeReg | settle | respond | respondResult => rfl

/-- A micro-step that is no response keeps CUR. -/
theorem MicroOp.run_cur_of_busy {op : MicroOp} {s : State} (h : (op.run s).seq ≠ .idle) :
    (op.run s).cur = s.cur := by
  cases op with
  | readConv => exact readConv_cur s
  | writeConfig | contWriteConfig | writeReg | settle => rfl
  | respond | respondResult => exact absurd rfl h

theorem tick_cmds (s : State) : (tick s).cmds = s.cmds := by
  unfold tick
  split <;> rfl

theorem tick_cur (s : State) : (tick s).cur = s.cur := by
  unfold tick
  split <;> rfl

theorem cutPending_cmds (n : Nat) (s : State) : (cutPending n s).cmds = s.cmds := by
  obtain ⟨_, _, _, _, _, h⟩ := cutPending_frame n s
  rw [h]

/-- A stall reaches the trace, the byte script, the model's counter, the session and its own mark, nothing else. -/
theorem stall_frame (k : Nat) (s : State) :
    ∃ fs r j b S, stall k s = { s with bus := s.bus ++ fs, rx := r, freeIdx := j, stalled := b, sess := S } := by
  obtain ⟨_, h⟩ | ⟨tr, u, hp, h⟩ := stall_cases k s
  · exact ⟨[], s.rx, s.freeIdx, s.stalled, s.sess, by simp [h]⟩
  · obtain ⟨fs, r, j, hb⟩ := tr.begin_frame (tr.stallAt k) u
    exact ⟨fs, r, j, true, u.sess, by rw [h, hb, pendingTransaction_state hp]⟩

theorem stall_cmds (k : Nat) (s : State) : (stall k s).cmds = s.cmds := by
  obtain ⟨_, _, _, _, _, h⟩ := stall_frame k s
  rw [h]

theorem stall_cur (k : Nat) (s : State) : (stall k s).cur = s.cur := by
  obtain ⟨_, _, _, _, _, h⟩ := stall_frame k s
  rw [h]

theorem SequencerStep.cmds {s t : State} (h : SequencerStep s t) :
    t.cmds = s.cmds ∨ (s.seq = .idle ∧ t.cmds = s.cmds.tail) := by
  cases h with
  | wait | stuck | settle => exact .inl rfl
  | accept w rest i hs hc hd => exact .inr ⟨hs, by rw [acceptOf_cmds, latch_cmds, hc, List.tail_cons]⟩
  | reserved w rest op hs hc hd => exact .inr ⟨hs, by rw [respond_cmds, latch_cmds, hc, List.tail_cons]⟩
  | micro i op => exact .inl (op.run_cmds s)

/-- A command in flight stays in CUR as long as it has not answered. -/
theorem SequencerStep.cur_of_busy {s t : State} (h : SequencerStep s t) (hs : s.seq ≠ .idle) (ht : t.seq ≠ .idle) :
    t.cur = s.cur := by
  cases h with
  | wait | stuck | settle => rfl
  | accept _ _ _ hi | reserved _ _ _ hi => exact absurd hi hs
  | micro => exact MicroOp.run_cur_of_busy ht

theorem MoveMade.cmds {m : Move} {s t : State} (h : MoveMade m s t) :
    t.cmds = s.cmds ∨ (s.seq = .idle ∧ t.cmds = s.cmds.tail) ∨ ∃ w, m = .host w ∧ t.cmds = s.cmds ++ [w] := by
  cases h with
  | sequencer t hm ht => exact ht.cmds.imp_right .inl
  | tick => exact .inl (tick_cmds s)
  | reset n => exact .inl (cutPending_cmds n s)
  | stall k => exact .inl (stall_cmds k s)
  | strap => exact .inl rfl
  | host w hm => exact .inr (.inr ⟨w, hm, rfl⟩)

theorem MoveMade.cur_of_busy {m : Move} {s t : State} (h : MoveMade m s t) (hs : s.seq ≠ .idle)
    (ht : t.seq ≠ .idle) : t.cur = s.cur := by
  cases h with
  | sequencer t hm hq => exact hq.cur_of_busy hs ht
  | tick => exact tick_cur s
  | reset => exact absurd rfl ht
  | stall k => exact stall_cur k s
  | strap | host => rfl

end Sys2Proof.Machine

/-! ### The statements of 00_scope.md -/

namespace Sys2Proof.Proofs

open Sys2Proof Sys2Proof.Machine

/-- Settles O45, from what every move leaves of the offered commands and of CUR. -/
theorem commandsAreTakenOnlyInIdle : Obligations.CommandsAreTakenOnlyInIdle := by
  intro s t h
  have hm := step_inv h
  exact ⟨hm.cmds, hm.cur_of_busy⟩

/-- Settles O35: a step whose move is the sequencer's is `sequencerStep`, one equation for each of its cases. -/
theorem stepRunsTheDecodedCommand : Obligations.StepRunsTheDecodedCommand := by
  intro s hm
  rw [step_of_nextMove_sequencer hm]
  refine ⟨?accept, ?reserved, ?none_offered, ?in_flight, ?stalled⟩
  case accept => exact fun w rest i hs hc hd => sequencerStep_accept hs hc hd
  case reserved =>
    exact fun w rest op hs hc hd =>
      ⟨_, sequencerStep_reserved hs hc hd, execReserved_latch_answers w rest { s with sched := s.sched.tail }⟩
  case none_offered => exact fun hs hc => sequencerStep_none_offered hs hc
  case in_flight => exact fun i hs hst hd => sequencerStep_in_flight hs hst hd
  case stalled => exact fun hs hst => sequencerStep_stalled hs hst

/-- Settles O36, by the order of `nextMove`: the schedule's head, else a tick while the timer is awaited, else the
sequencer. -/
theorem movesAreTakenInScheduleOrder : Obligations.MovesAreTakenInScheduleOrder := by
  refine ⟨fun s m r h => step_of_sched_cons h, ?tick, ?sequencer, fun s l => rfl, fun s w => rfl⟩
  case tick =>
    intro s h hs ht
    have hw : s.waiting := ⟨hs, ht⟩
    rw [step_of_sched_nil h, nextMove_nil_waiting h hw, ← tick_of_waiting hw]
    rfl
  case sequencer =>
    intro s h hw
    rw [step_of_sched_nil h, nextMove_nil h hw]
    rfl

/-- Settles O37: the placed word heads the offered commands in IDLE and the sequencer's move heads the schedule, so
the step is its accept. -/
theorem placedWordRunsNext : Obligations.PlacedWordRunsNext := by
  intro s w i h
  have hm : nextMove (s.withFetchWord 48 w) = .sequencer := nextMove_cons rfl
  rw [step_of_nextMove_sequencer hm, sequencerStep_accept rfl rfl (decode_of_decodeTableWord h), ofNat_mod_two_pow]
  rfl

end Sys2Proof.Proofs

/-! SUPPORT. The state between steps (10_state.md): how a command's phases follow its micro-steps, which registers each
move reaches, and the invariant that every move keeps. -/

namespace Sys2Proof.Machine

/-! ### Phases along a micro-sequence -/

/-- `PathStep i p op q`: in phase `p` command `i` performs `op`, and `q` is the phase it is in next, none once it has
answered (42_single_shot.md R115). -/
inductive PathStep (i : Instr) : Phase → MicroOp → Option Phase → Prop where
  | writeConfig : PathStep i .issue .writeConfig (some .configWritten)
  | contWriteConfig : PathStep i .issue .contWriteConfig (some .configWritten)
  | writeReg (p : Byte) (v : Word) : PathStep i .issue (.writeReg p v) (some .issue)
  | settle : PathStep i .configWritten .settle (some .settling)
  | readSettled : PathStep i .settling .readConv (some .resultReady)
  /-- Only GETLAST and CLRLATCH read without a write of their own. -/
  | readAtOnce (hi : i = .getlast ∨ i = .clrlatch) : PathStep i .issue .readConv (some .resultReady)
  | respondWritten (st : Status) (v : BitVec 32) : PathStep i .configWritten (.respond st v) none
  | respondRead (st : Status) (v : BitVec 32) : PathStep i .resultReady (.respond st v) none
  | respondResult : PathStep i .resultReady .respondResult none

/-- The phases `ps` are those in which command `i` performs the micro-steps `ops`. -/
def PathFollows (i : Instr) : List Phase → List MicroOp → Prop
  | [], _ => True
  | _ :: _, [] => False
  | p :: ps, op :: ops => PathStep i p op ps[0]? ∧ PathFollows i ps ops

/-- The path of every command follows its micro-sequence. -/
theorem path_follows_program (i : Instr) : PathFollows i (path i) (program i) := by
  cases i with
  | enc | fld | dly | scl | mv => trivial
  | setch | setdf | setgain | setrate | setcmode | setcpol | setclat | setcque | cont =>
    exact ⟨.writeConfig, .respondWritten _ _, trivial⟩
  | acq | rdch | rddf => exact ⟨.writeConfig, .settle, .readSettled, .respondResult, trivial⟩
  | getlast => exact ⟨.readAtOnce (.inl rfl), .respondResult, trivial⟩
  | clrlatch => exact ⟨.readAtOnce (.inr rfl), .respondRead _ _, trivial⟩
  | cmpch | cmpchl | cmpdf | cmpdfl =>
    exact ⟨.writeReg _ _, .writeReg _ _, .contWriteConfig, .respondWritten _ _, trivial⟩

theorem PathFollows.pathStep {i : Instr} {ps : List Phase} {ops : List MicroOp} (h : PathFollows i ps ops)
    {n : Nat} {p : Phase} {op : MicroOp} (hp : ps[n]? = some p) (hop : ops[n]? = some op) :
    PathStep i p op ps[n + 1]? := by
  induction n generalizing ps ops with
  | zero =>
    cases ps with
    | nil => cases hp
    | cons p' ps =>
      cases ops with
      | nil => cases hop
      | cons op' ops =>
        cases hp
        cases hop
        exact h.1
  | succ n ih =>
    cases ps with
    | nil => cases hp
    | cons p' ps =>
      cases ops with
      | nil => cases hop
      | cons op' ops => exact ih h.2 hp hop

/-- A comparator start writes the configuration in phase ISSUE. -/
theorem PathStep.issue_of_contWriteConfig {i : Instr} {p : Phase} {q : Option Phase}
    (h : PathStep i p .contWriteConfig q) : p = .issue := by
  cases h
  rfl

/-- Only comparator starts set MODE in a micro-step (44_comparator.md R136). -/
theorem comparator_of_contWriteConfig {i : Instr} (h : .contWriteConfig ∈ program i) :
    ∃ t a b, i = .cmpch t a ∨ i = .cmpchl t a b ∨ i = .cmpdf t a ∨ i = .cmpdfl t a b := by
  simpa using program_mem h

theorem path_length_le (i : Instr) : (path i).length ≤ 4 := by
  cases i <;> simp [path]

theorem State.InStep.path_get {s : State} {i : Instr} (h : s.InStep) (hs : s.seq ≠ .idle)
    (hd : decode s.cur = .instr i) : (path i)[s.upc.toNat]? = some s.seq := by
  obtain h | ⟨j, hj, hp⟩ := h
  · exact absurd h hs
  · rw [hd] at hj
    cases hj
    exact hp

/-- A state in step performs the micro-step its phase calls for. -/
theorem State.InStep.pathStep {s : State} {i : Instr} {op : MicroOp} (h : s.InStep) (hs : s.seq ≠ .idle)
    (hd : decode s.cur = .instr i) (hop : (program i)[s.upc.toNat]? = some op) :
    PathStep i s.seq op (path i)[s.upc.toNat + 1]? :=
  (path_follows_program i).pathStep (h.path_get hs hd) hop

/-- UPC does not wrap on a command's path. -/
theorem upc_succ_toNat {s : State} {i : Instr} {p : Phase} (h : (path i)[s.upc.toNat]? = some p) :
    (s.upc + 1).toNat = s.upc.toNat + 1 := by
  have hlt := (List.getElem?_eq_some_iff.1 h).1
  have hle := path_length_le i
  rw [BitVec.toNat_add]
  exact Nat.mod_eq_of_lt (by simp; omega)

/-! ### What a conversion read keeps -/

theorem readConv_frame (s : State) :
    readConv s = { s with
      res := (readConv s).res, seq := .resultReady, rx := (readConv s).rx
      bus := (readConv s).bus, freeIdx := (readConv s).freeIdx } := by
  obtain ⟨hi, lo, h, _⟩ := readConv_spec s
  rw [h]

@[simp] theorem readConv_seq (s : State) : (readConv s).seq = .resultReady := rfl
@[simp] theorem readConv_cfg (s : State) : (readConv s).cfg = s.cfg := by rw [readConv_frame]
@[simp] theorem readConv_sess (s : State) : (readConv s).sess = s.sess := by rw [readConv_frame]
@[simp] theorem readConv_upc (s : State) : (readConv s).upc = s.upc := by rw [readConv_frame]
@[simp] theorem readConv_tmr (s : State) : (readConv s).tmr = s.tmr := by rw [readConv_frame]
@[simp] theorem readConv_lastw (s : State) : (readConv s).lastw = s.lastw := by rw [readConv_frame]
@[simp] theorem readConv_lastwValid (s : State) : (readConv s).lastwValid = s.lastwValid := by rw [readConv_frame]
@[simp] theorem readConv_rsps (s : State) : (readConv s).rsps = s.rsps := by rw [readConv_frame]

/-! ### What a micro-step does to phase, UPC and timer -/

/-- A micro-step enters the next phase of the command's path, IDLE past its end. -/
theorem PathStep.run_seq {i : Instr} {s : State} {op : MicroOp} {q : Option Phase} (h : PathStep i s.seq op q) :
    (op.run s).seq = q.getD .idle := by
  generalize hp : s.seq = p at h
  cases h with
  | writeReg => exact hp
  | writeConfig | contWriteConfig | settle | readSettled | readAtOnce | respondWritten | respondRead
  | respondResult => rfl

/-- A micro-step that is no response names the next one. -/
theorem MicroOp.run_upc_of_busy {op : MicroOp} {s : State} (h : (op.run s).seq ≠ .idle) :
    (op.run s).upc = s.upc + 1 := by
  cases op with
  | readConv => exact congrArg (· + 1) (readConv_upc s)
  | writeConfig | contWriteConfig | writeReg | settle => rfl
  | respond | respondResult => exact absurd rfl h

/-- A micro-step keeps the timer and the count of restarts, unless it is `Settle`. -/
theorem MicroOp.run_tmr (op : MicroOp) (s : State) :
    ((op.run s).tmr = s.tmr ∧ (op.run s).tbRestarts = s.tbRestarts) ∨
    ((op.run s).seq = .settling ∧ (op.run s).tmr = Codec.delayFor ((op.run s).sess.rate.setWidth 8) ∧
      (op.run s).tbRestarts = s.tbRestarts + 1) := by
  cases op with
  | settle => exact .inr ⟨rfl, rfl, rfl⟩
  | readConv =>
    refine .inl ⟨readConv_tmr s, ?_⟩
    simp only [MicroOp.run, advance_tbRestarts]
    rw [readConv_frame]
  | writeConfig | contWriteConfig | writeReg | respond | respondResult => exact .inl ⟨rfl, rfl⟩

/-! ### What an instruction keeps of the ports -/

/-- `t` has the parameters, ADDR, the ports' inputs, the schedule and the model's marks of `s` (10_state.md R35). -/
structure KeepsPorts (s t : State) : Prop where
  cfg : t.cfg = s.cfg
  addr : t.addr = s.addr
  addrSel : t.addrSel = s.addrSel
  cmds : t.cmds = s.cmds
  sched : t.sched = s.sched
  stalled : t.stalled = s.stalled
  busCut : t.busCut = s.busCut

theorem KeepsPorts.refl (s : State) : KeepsPorts s s := ⟨rfl, rfl, rfl, rfl, rfl, rfl, rfl⟩

theorem acceptOf_keepsPorts (i : Instr) (s : State) : KeepsPorts s (acceptOf i s) := by
  obtain ⟨S', ⟨st, v, _, h⟩ | h⟩ := acceptOf_shape i s <;> rw [h] <;> exact ⟨rfl, rfl, rfl, rfl, rfl, rfl, rfl⟩

theorem MicroOp.run_keepsPorts (op : MicroOp) (s : State) : KeepsPorts s (op.run s) := by
  cases op with
  | readConv =>
    simp only [MicroOp.run]
    rw [readConv_frame]
    exact ⟨rfl, rfl, rfl, rfl, rfl, rfl, rfl⟩
  | writeConfig | contWriteConfig | writeReg | settle | respond | respondResult =>
    exact ⟨rfl, rfl, rfl, rfl, rfl, rfl, rfl⟩

/-- Accepting a command gives at most one response. -/
theorem acceptOf_rsps (i : Instr) (s : State) :
    (acceptOf i s).rsps = s.rsps ∨ ∃ r, (acceptOf i s).rsps = s.rsps ++ [r] := by
  obtain ⟨S', ⟨st, v, _, h⟩ | h⟩ := acceptOf_shape i s
  · exact .inr ⟨rspWord st v, by rw [h, respond_rsps]⟩
  · exact .inl (by rw [h, issue_rsps])

theorem acceptOf_bus (i : Instr) (s : State) : (acceptOf i s).bus = s.bus := by
  obtain ⟨S', ⟨st, v, _, h⟩ | h⟩ := acceptOf_shape i s <;> rw [h] <;> rfl

/-- A micro-step gives at most one response. -/
theorem MicroOp.run_rsps (op : MicroOp) (s : State) :
    (op.run s).rsps = s.rsps ∨ ∃ r, (op.run s).rsps = s.rsps ++ [r] := by
  cases op with
  | respond | respondResult => exact .inr ⟨_, rfl⟩
  | readConv => exact .inl (readConv_rsps s)
  | writeConfig | contWriteConfig | writeReg | settle => exact .inl rfl

/-- A micro-step only adds to the trace. -/
theorem MicroOp.run_bus (op : MicroOp) (s : State) : ∃ es, (op.run s).bus = s.bus ++ es := by
  cases op with
  | readConv =>
    obtain ⟨hi, lo, _, ⟨_, hb⟩, _⟩ := readConv_spec s
    exact hb
  | writeConfig | contWriteConfig | writeReg => exact ⟨_, rfl⟩
  | settle | respond | respondResult => exact ⟨[], (List.append_nil _).symm⟩

/-- The ways an instruction's step can answer a next state. -/
theorem exec_inv {i : Instr} {s t : State} (h : exec i s = .next t) :
    (s.seq = .idle ∧ t = acceptOf i s) ∨ (s.waiting ∧ t = s) ∨
    (s.seq ≠ .idle ∧ ∃ op, (program i)[s.upc.toNat]? = some op ∧ t = op.run s) := by
  by_cases hs : s.seq = .idle
  · rw [exec_idle i hs] at h
    cases h
    exact .inl ⟨hs, rfl⟩
  · rw [exec_busy i hs] at h
    obtain ⟨hw, he⟩ | ⟨_, op, hop, he⟩ | ⟨_, _, he⟩ := runProgram_cases (program i) s <;> rw [he] at h <;> cases h
    · exact .inr (.inl ⟨hw, rfl⟩)
    · exact .inr (.inr ⟨hs, op, hop, rfl⟩)

/-! ### Parameters, ADDR and the strap under every move -/

theorem resetNext_iff {s : State} : s.resetNext = true ↔ ∃ n, nextMove s = .reset n := by
  cases h : nextMove s <;> simp [State.resetNext, h]

theorem not_resetNext_iff {s : State} : s.resetNext = false ↔ ∀ n, nextMove s ≠ .reset n := by
  rw [← Bool.not_eq_true, resetNext_iff, not_exists]

/-- `t` has the parameters, ADDR and the strap level of `s`. -/
structure KeepsAddress (s t : State) : Prop where
  cfg : t.cfg = s.cfg
  addr : t.addr = s.addr
  addrSel : t.addrSel = s.addrSel

theorem KeepsPorts.keepsAddress {s t : State} (h : KeepsPorts s t) : KeepsAddress s t := ⟨h.cfg, h.addr, h.addrSel⟩

theorem tick_keepsAddress (s : State) : KeepsAddress s (tick s) := by
  unfold tick
  split <;> exact ⟨rfl, rfl, rfl⟩

theorem stall_keepsAddress (k : Nat) (s : State) : KeepsAddress s (stall k s) := by
  obtain ⟨_, _, _, _, _, h⟩ := stall_frame k s
  rw [h]
  exact ⟨rfl, rfl, rfl⟩

theorem cutPending_keepsAddress (n : Nat) (s : State) : KeepsAddress s (cutPending n s) := by
  obtain ⟨_, _, _, _, _, h⟩ := cutPending_frame n s
  rw [h]
  exact ⟨rfl, rfl, rfl⟩

theorem SequencerStep.keepsAddress {s t : State} (h : SequencerStep s t) : KeepsAddress s t := by
  cases h with
  | wait | stuck | settle | reserved => exact ⟨rfl, rfl, rfl⟩
  | accept w rest i =>
    obtain ⟨hcfg, haddr, hsel⟩ := (acceptOf_keepsPorts i (latch w rest s)).keepsAddress
    exact ⟨hcfg, haddr, hsel⟩
  | micro i op => exact (op.run_keepsPorts s).keepsAddress

theorem MoveMade.cfg {m : Move} {s t : State} (h : MoveMade m s t) : t.cfg = s.cfg := by
  cases h with
  | sequencer t _ ht => exact ht.keepsAddress.cfg
  | tick => exact (tick_keepsAddress s).cfg
  | reset n => exact (cutPending_keepsAddress n s).cfg
  | stall k => exact (stall_keepsAddress k s).cfg
  | strap | host => rfl

theorem MoveMade.addrSel {m : Move} {s t : State} (h : MoveMade m s t) (hm : ∀ l, m ≠ .strap l) :
    t.addrSel = s.addrSel := by
  cases h with
  | sequencer t _ ht => exact ht.keepsAddress.addrSel
  | tick => exact (tick_keepsAddress s).addrSel
  | reset n => exact (cutPending_keepsAddress n s).addrSel
  | stall k => exact (stall_keepsAddress k s).addrSel
  | strap l h => exact absurd h (hm l)
  | host => rfl

theorem MoveMade.addr {m : Move} {s t : State} (h : MoveMade m s t) (hm : ∀ n, m ≠ .reset n) : t.addr = s.addr := by
  cases h with
  | sequencer t _ ht => exact ht.keepsAddress.addr
  | tick => exact (tick_keepsAddress s).addr
  | reset n h => exact absurd h (hm n)
  | stall k => exact (stall_keepsAddress k s).addr
  | strap | host => rfl

/-- A reset loads ADDR from the strap (10_state.md R21). -/
theorem MoveMade.addr_of_reset {n : Nat} {s t : State} (h : MoveMade (.reset n) s t) :
    some t.addr = s.cfg.addrTable[s.addrSel.toNat]? := by
  cases h with
  | sequencer _ hm | tick hm | stall _ hm | strap _ hm | host _ hm => cases hm
  | reset n =>
    obtain ⟨hcfg, _, hsel⟩ := cutPending_keepsAddress n s
    rw [applyReset_addr]
    simp only [hcfg, hsel]
    exact (Vector.getElem?_eq_getElem s.addrSel.isLt).symm

/-! ### The parameters' constraints -/

/-- What the constraints of 00_scope.md R10 say of the modes and of the default word. -/
theorem Config.ok_spec {c : Config} (h : c.ok = true) :
    c.modeSingle ≠ c.modeCont ∧ (Codec.decode c.defaultWord).gain = 0 ∧
      (Codec.decode c.defaultWord).mode = c.modeSingle ∧
      ((Codec.decode c.defaultWord).rate = 3 ∨ (Codec.decode c.defaultWord).rate = 4) := by
  simp only [Config.ok, Bool.and_eq_true, Bool.or_eq_true, beq_iff_eq, bne_iff_ne] at h
  obtain ⟨⟨⟨⟨_, hmodes⟩, hgain⟩, hrate⟩, hmode⟩ := h
  exact ⟨hmodes, hgain, hmode, hrate⟩

/-! ### The parts of the invariant -/

theorem timerBounded_of_tmr_zero {s : State} (h : s.tmr = 0) : s.TimerBounded :=
  ⟨fun _ => h, by simp [h]⟩

/-- Outside a settling wait the timer is 0. -/
theorem State.TimerBounded.tmr_zero {s : State} (h : s.TimerBounded) (hw : ¬ s.waiting) : s.tmr = 0 := by
  by_cases hs : s.seq = .settling
  · by_contra ht
    exact hw ⟨hs, ht⟩
  · exact h.1 hs

theorem State.Synced.whereDue {s : State} (h : s.Synced) : s.SyncedWhereDue :=
  ⟨fun _ => h, fun _ _ => h, fun _ _ _ => h⟩

/-- At rest coherence is due in continuous mode only. -/
theorem syncedWhereDue_of_cont {s : State} (hs : s.seq = .idle ∨ s.seq = .resultReady)
    (h : s.sess.mode = s.cfg.modeCont → s.Synced) : s.SyncedWhereDue := by
  obtain hs | hs := hs <;> simp [State.SyncedWhereDue, hs] <;> exact h

theorem stallsInFlight_of_not_stalled {s : State} (h : s.stalled = false) : s.StallsInFlight := by
  simp [State.StallsInFlight, h]

theorem State.StallsInFlight.not_stalled {s : State} (h : s.StallsInFlight) (hs : s.seq = .idle) :
    s.stalled = false := by
  by_contra hst
  exact (h (by simpa using hst)).1 hs

/-- In IDLE the invariant asks for allowed parameters, a timer at 0, coherence in continuous mode and no stall. -/
theorem inv_of_idle {s : State} (hs : s.seq = .idle) (hcfg : s.cfg.ok = true) (htmr : s.tmr = 0)
    (hsync : s.sess.mode = s.cfg.modeCont → s.Synced) (hst : s.stalled = false) : s.Inv :=
  ⟨hcfg, .inl hs, timerBounded_of_tmr_zero htmr, syncedWhereDue_of_cont (.inl hs) hsync,
    stallsInFlight_of_not_stalled hst⟩

/-- And in single-shot mode no coherence either. -/
theorem inv_of_idle_single {s : State} (hs : s.seq = .idle) (hcfg : s.cfg.ok = true) (htmr : s.tmr = 0)
    (hmode : s.sess.mode = s.cfg.modeSingle) (hst : s.stalled = false) : s.Inv :=
  inv_of_idle hs hcfg htmr (fun hc => absurd (hmode.symm.trans hc) (Config.ok_spec hcfg).1) hst

/-! ### The invariant under a micro-step -/

theorem MicroOp.run_inStep {i : Instr} {op : MicroOp} {s : State} (h : s.InStep) (hs : s.seq ≠ .idle)
    (hd : decode s.cur = .instr i) (hop : (program i)[s.upc.toNat]? = some op) : (op.run s).InStep := by
  have hseq := (h.pathStep hs hd hop).run_seq
  by_cases hidle : (op.run s).seq = .idle
  · exact .inl hidle
  · refine .inr ⟨i, by rw [MicroOp.run_cur_of_busy hidle, hd], ?_⟩
    rw [MicroOp.run_upc_of_busy hidle, upc_succ_toNat (h.path_get hs hd), hseq]
    cases hq : (path i)[s.upc.toNat + 1]? with
    | none => exact absurd (by rw [hseq, hq]; rfl) hidle
    | some q => rfl

theorem MicroOp.run_timerBounded {s : State} (op : MicroOp) (h : s.tmr = 0) : (op.run s).TimerBounded := by
  obtain ⟨ht, _⟩ | ⟨hs, ht, _⟩ := op.run_tmr s
  · exact timerBounded_of_tmr_zero (ht.trans h)
  · exact ⟨fun hn => absurd hs hn, by rw [ht]⟩

/-- A conversion read keeps coherence. -/
theorem State.Synced.readConv {s : State} (h : s.Synced) : (MicroOp.readConv.run s).Synced := by
  simpa [State.Synced, MicroOp.run] using h

/-- A configuration write makes the session coherent, and every other micro-step finds and leaves it so where it is
due (10_state.md R33). -/
theorem PathStep.run_syncedWhereDue {i : Instr} {op : MicroOp} {s : State} {q : Option Phase}
    (hstep : PathStep i s.seq op q) (hd : decode s.cur = .instr i) (h : s.SyncedWhereDue) :
    (op.run s).SyncedWhereDue := by
  obtain ⟨hwritten, hrest, hread⟩ := h
  generalize hp : s.seq = p at hstep
  cases hstep with
  | writeConfig | contWriteConfig => exact State.Synced.whereDue ⟨rfl, rfl⟩
  | writeReg => exact ⟨hwritten, hrest, hread⟩
  | settle => exact State.Synced.whereDue (hwritten (.inl hp))
  | readSettled => exact (hwritten (.inr hp)).readConv.whereDue
  | readAtOnce hi =>
    refine syncedWhereDue_of_cont (.inr rfl) fun hm => (hread hp ?_ (by simpa [MicroOp.run] using hm)).readConv
    obtain rfl | rfl := hi
    · exact .inl hd
    · exact .inr hd
  | respondWritten => exact syncedWhereDue_of_cont (.inl rfl) fun _ => hwritten (.inl hp)
  | respondRead | respondResult => exact syncedWhereDue_of_cont (.inl rfl) (hrest (.inr hp))

theorem MicroOp.run_inv {i : Instr} {op : MicroOp} {s : State} (h : s.Inv) (hs : s.seq ≠ .idle)
    (hst : s.stalled = false) (hd : decode s.cur = .instr i) (hw : ¬ s.waiting)
    (hop : (program i)[s.upc.toNat]? = some op) : (op.run s).Inv := by
  obtain ⟨hcfg, hin, htmr, hsync, _⟩ := h
  have hk := op.run_keepsPorts s
  exact ⟨by rw [hk.cfg, hcfg], op.run_inStep hin hs hd hop, op.run_timerBounded (htmr.tmr_zero hw),
    (hin.pathStep hs hd hop).run_syncedWhereDue hd hsync, stallsInFlight_of_not_stalled (hk.stalled.trans hst)⟩

/-! ### The invariant under an accept -/

/-- The ways a command can be accepted in `s`. -/
inductive Accepted (i : Instr) (s : State) : State → Prop where
  /-- Answered at once, the session as it was. -/
  | answered (st : Status) (v : BitVec 32) : Accepted i s (respond st v s)
  /-- A setter in single-shot mode: answered at once with the session `S'`. -/
  | stored (S' : Session) (hm : S'.mode = s.cfg.modeSingle) (st : Status) (v : BitVec 32) :
      Accepted i s (respond st v { s with sess := S' })
  /-- A micro-sequence begins; GETLAST and CLRLATCH keep the session. -/
  | issued (S' : Session) (hS : i = .getlast ∨ i = .clrlatch → S' = s.sess) (hp : (path i)[0]? = some .issue) :
      Accepted i s (issue { s with sess := S' })

theorem acceptSetter_accepted {i : Instr} {st : Status} {update : Session → Session} {s : State}
    (hi : ¬ (i = .getlast ∨ i = .clrlatch)) (hp : (path i)[0]? = some .issue) :
    Accepted i s (acceptSetter st update s) := by
  simp only [acceptSetter]
  split
  · next hm => exact .stored _ hm st 0
  · exact .issued _ (fun h => absurd h hi) hp

theorem acceptOf_accepted (i : Instr) (s : State) : Accepted i s (acceptOf i s) := by
  cases i with
  | enc | dly | scl | mv => exact .answered _ _
  | fld =>
    simp only [acceptOf]
    split
    · exact .answered _ _
    · exact .answered _ _
  | setch =>
    simp only [acceptOf]
    exact acceptSetter_accepted (by simp) rfl
  | setdf =>
    simp only [acceptOf]
    split
    · exact acceptSetter_accepted (by simp) rfl
    · exact .answered _ _
  | setgain | setrate | setcmode | setcpol | setclat | setcque =>
    simp only [acceptOf]
    split
    · exact .answered _ _
    · exact acceptSetter_accepted (by simp) rfl
  | acq | cont => exact .issued _ (by simp) rfl
  | rdch | rddf =>
    simp only [acceptOf]
    split
    · exact .issued _ (by simp) rfl
    · exact .answered _ _
  | cmpch | cmpchl | cmpdf | cmpdfl =>
    simp only [acceptOf, acceptComparator]
    split
    · exact .issued _ (by simp) rfl
    · exact .answered _ _
  | getlast | clrlatch => exact .issued s.sess (fun _ => rfl) rfl

/-- Latching a command is of no account to the invariant, which in IDLE asks nothing of CUR and UPC. -/
theorem latch_inv {s : State} (h : s.Inv) (hs : s.seq = .idle) (w : Cmd) (rest : List Cmd) :
    (latch w rest s).Inv := by
  obtain ⟨hcfg, _, htmr, ⟨hwritten, hrest, _⟩, hst⟩ := h
  exact ⟨hcfg, .inl hs, htmr, ⟨hwritten, hrest, fun hi => by simp [hs] at hi⟩, hst⟩

theorem Accepted.inv {i : Instr} {s t : State} (ha : Accepted i s t) (h : s.Inv) (hs : s.seq = .idle)
    (hd : decode s.cur = .instr i) : t.Inv := by
  obtain ⟨hcfg, _, htmr, ⟨_, hrest, _⟩, hstall⟩ := h
  have ht : s.tmr = 0 := htmr.1 (by simp [hs])
  have hst := hstall.not_stalled hs
  cases ha with
  | answered => exact inv_of_idle rfl hcfg ht (hrest (.inl hs)) hst
  | stored S' hm => exact inv_of_idle_single rfl hcfg ht hm hst
  | issued S' hS hp =>
    refine ⟨hcfg, .inr ⟨i, hd, hp⟩, timerBounded_of_tmr_zero ht, ?_, stallsInFlight_of_not_stalled hst⟩
    refine ⟨by simp, by simp, fun _ hi hm => ?_⟩
    obtain rfl := hS (by simpa [hd] using hi)
    exact hrest (.inl hs) hm

/-! ### The invariant under every move -/

theorem SequencerStep.inv {s t : State} (h : SequencerStep s t) (hi : s.Inv) : t.Inv := by
  cases h with
  | wait | stuck | settle => exact hi
  | accept w rest i hs _ hd => exact (acceptOf_accepted i _).inv (latch_inv hi hs w rest) hs hd
  | reserved w rest op hs =>
    obtain ⟨hcfg, _, htmr, ⟨_, hrest, _⟩, hstall⟩ := hi
    exact inv_of_idle rfl hcfg (htmr.1 (by simp [hs])) (hrest (.inl hs)) (hstall.not_stalled hs)
  | micro i op hs hst hd hw hop => exact op.run_inv hi hs hst hd hw hop

theorem tick_of_not_waiting {s : State} (hw : ¬ s.waiting) : tick s = s := if_neg hw

/-- A tick in the settling wait leaves less to wait for; elsewhere it does nothing. -/
theorem tick_inv {s : State} (h : s.Inv) : (tick s).Inv := by
  by_cases hw : s.waiting
  · obtain ⟨hcfg, hin, ⟨_, hle⟩, hsync, hstall⟩ := h
    rw [tick_of_waiting hw]
    refine ⟨hcfg, hin, ⟨fun hn => absurd hw.1 hn, ?_⟩, hsync, fun hst => absurd (hstall hst).2 hw.2⟩
    have hpos : s.tmr ≠ 0 := hw.2
    have : (s.tmr - 1).toNat ≤ s.tmr.toNat := by bv_omega
    exact this.trans hle
  · rwa [tick_of_not_waiting hw]

/-- A reset meets the invariant whatever it meets: the default word is in single-shot mode. -/
theorem applyReset_inv {s : State} (hcfg : s.cfg.ok = true) : (applyReset s).Inv := by
  obtain ⟨_, _, hmode, _⟩ := Config.ok_spec hcfg
  exact inv_of_idle_single rfl hcfg rfl hmode rfl

/-- A pending transaction begins in a state that meets the invariant: the MODE that a comparator start sets comes in
phase ISSUE, where no coherence is due of it. -/
theorem pendingTransaction_inv {s u : State} {tr : Transaction} (h : s.Inv)
    (hp : pendingTransaction s = some (tr, u)) : u.Inv ∧ u.seq ≠ .idle ∧ u.tmr = 0 := by
  obtain ⟨hs, hw, _, i, op, hd, hop, htr⟩ := pendingTransaction_some hp
  obtain ⟨hcfg, hin, htmr, hsync, hstall⟩ := h
  have ht := htmr.tmr_zero hw
  obtain rfl | ⟨rfl, rfl⟩ := MicroOp.transaction_state htr
  · exact ⟨⟨hcfg, hin, htmr, hsync, hstall⟩, hs, ht⟩
  · refine ⟨⟨hcfg, hin, htmr, ?_, hstall⟩, hs, ht⟩
    have hi : s.seq = .issue := (hin.pathStep hs hd hop).issue_of_contWriteConfig
    have hcmp : ¬ (decode s.cur = .instr .getlast ∨ decode s.cur = .instr .clrlatch) := by
      obtain ⟨t, a, b, rfl | rfl | rfl | rfl⟩ := comparator_of_contWriteConfig (program_get_mem hop) <;> simp [hd]
    exact ⟨by simp [hi], by simp [hi], fun _ h => absurd h hcmp⟩

theorem stall_inv (k : Nat) {s : State} (h : s.Inv) : (stall k s).Inv := by
  obtain ⟨_, he⟩ | ⟨tr, u, hp, he⟩ := stall_cases k s
  · rwa [he]
  · obtain ⟨⟨hcfg, hin, htmr, hsync, _⟩, hs, ht⟩ := pendingTransaction_inv h hp
    obtain ⟨fs, r, j, hb⟩ := tr.begin_frame (tr.stallAt k) u
    rw [he, hb]
    exact ⟨hcfg, hin, htmr, hsync, fun _ => ⟨hs, ht⟩⟩

theorem MoveMade.inv {m : Move} {s t : State} (h : MoveMade m s t) (hi : s.Inv) : t.Inv := by
  cases h with
  | sequencer t _ ht => exact ht.inv hi
  | tick => exact tick_inv hi
  | reset n => exact applyReset_inv (by rw [(cutPending_keepsAddress n s).cfg, hi.1])
  | stall k => exact stall_inv k hi
  | strap | host => exact hi

theorem step_keeps_inv {s t : State} (hi : s.Inv) (h : step s = .next t) : t.Inv := (step_inv h).inv hi

/-- What every step keeps holds along every run. -/
theorem run_induction {P : State → Prop} (hstep : ∀ s t, P s → step s = .next t → P t) :
    ∀ (n : Nat) (s t : State), P s → Host.Core.run Sys2Proof.core n s = .next t → P t
  | 0, s, t, hs, h => by
    cases h
    exact hs
  | n + 1, s, t, hs, h => by
    cases hu : step s with
    | next u =>
      rw [run_succ hu] at h
      exact run_induction hstep n u t (hstep s u hs hu) h
    | fault r | refused r =>
      simp [Host.Core.run, show Sys2Proof.core.step s = _ from hu] at h

/-! ### Phases under every move -/

theorem PathStep.allowed {i : Instr} {s : State} {op : MicroOp} {q : Option Phase} (h : PathStep i s.seq op q) :
    phaseStepAllowed .sequencer s.seq (op.run s).seq = true := by
  rw [h.run_seq]
  generalize s.seq = p at h
  cases h <;> rfl

theorem acceptOf_seq (i : Instr) (s : State) : (acceptOf i s).seq = .idle ∨ (acceptOf i s).seq = .issue := by
  obtain ⟨S', ⟨st, v, _, h⟩ | h⟩ := acceptOf_shape i s
  · exact .inl (by rw [h, respond_seq])
  · exact .inr (by rw [h, issue_seq])

theorem SequencerStep.phase {s t : State} (h : SequencerStep s t) (hin : s.InStep) :
    phaseStepAllowed .sequencer s.seq t.seq = true ∨ (s.stalled = true ∧ t.seq = s.seq) := by
  cases h with
  | wait hs =>
    rw [hs]
    exact .inl rfl
  | accept w rest i hs =>
    rw [hs]
    obtain h | h := acceptOf_seq i (latch w rest s) <;> rw [h] <;> exact .inl rfl
  | reserved w rest op hs =>
    rw [hs]
    exact .inl rfl
  | stuck hs hst => exact .inr ⟨hst, rfl⟩
  | settle i hs hst hd hw =>
    rw [hw.1]
    exact .inl rfl
  | micro i op hs hst hd hw hop => exact .inl (hin.pathStep hs hd hop).allowed

theorem tick_seq (s : State) : (tick s).seq = s.seq := by
  unfold tick
  split <;> rfl

theorem stall_seq (k : Nat) (s : State) : (stall k s).seq = s.seq := by
  obtain ⟨_, _, _, _, _, h⟩ := stall_frame k s
  rw [h]

theorem MoveMade.phase {m : Move} {s t : State} (h : MoveMade m s t) (hin : s.InStep) :
    phaseStepAllowed m s.seq t.seq = true ∨ (s.stalled = true ∧ t.seq = s.seq) := by
  cases h with
  | sequencer t hm ht =>
    rw [hm]
    exact ht.phase hin
  | tick hm => exact .inl (by simp [hm, phaseStepAllowed, tick_seq])
  | reset n hm => exact .inl (by simp [hm, phaseStepAllowed])
  | stall k hm => exact .inl (by simp [hm, phaseStepAllowed, stall_seq])
  | strap l hm => exact .inl (by simp [hm, phaseStepAllowed])
  | host w hm => exact .inl (by simp [hm, phaseStepAllowed])

/-! ### Registers that only a micro-step writes -/

/-- `t` has RES, RESG, LASTW, LASTW_VALID and the count of timebase restarts of `s`. -/
structure KeepsResults (s t : State) : Prop where
  res : t.res = s.res
  resg : t.resg = s.resg
  lastw : t.lastw = s.lastw
  lastwValid : t.lastwValid = s.lastwValid
  tbRestarts : t.tbRestarts = s.tbRestarts

theorem acceptOf_keepsResults (i : Instr) (s : State) : KeepsResults s (acceptOf i s) ∧ (acceptOf i s).tmr = s.tmr := by
  obtain ⟨S', ⟨st, v, _, h⟩ | h⟩ := acceptOf_shape i s <;> rw [h] <;> exact ⟨⟨rfl, rfl, rfl, rfl, rfl⟩, rfl⟩

theorem stall_keepsResults (k : Nat) (s : State) : KeepsResults s (stall k s) ∧ (stall k s).tmr = s.tmr := by
  obtain ⟨_, _, _, _, _, h⟩ := stall_frame k s
  rw [h]
  exact ⟨⟨rfl, rfl, rfl, rfl, rfl⟩, rfl⟩

/-- A move that is no reset keeps these registers and TMR, or it counts TMR down, or it is a micro-step. -/
theorem MoveMade.results_cases {m : Move} {s t : State} (h : MoveMade m s t) (hm : ∀ n, m ≠ .reset n) :
    (KeepsResults s t ∧ t.tmr = s.tmr) ∨ (m = .tick ∧ s.waiting ∧ t = { s with tmr := s.tmr - 1 }) ∨
    ∃ i op, op ∈ program i ∧ t = op.run s := by
  have hrefl : KeepsResults s s := ⟨rfl, rfl, rfl, rfl, rfl⟩
  cases h with
  | sequencer t _ ht =>
    cases ht with
    | wait | stuck | settle => exact .inl ⟨hrefl, rfl⟩
    | accept w rest i =>
      obtain ⟨⟨hres, hresg, hlastw, hvalid, htb⟩, ht⟩ := acceptOf_keepsResults i (latch w rest s)
      exact .inl ⟨⟨hres, hresg, hlastw, hvalid, htb⟩, ht⟩
    | reserved => exact .inl ⟨⟨rfl, rfl, rfl, rfl, rfl⟩, rfl⟩
    | micro i op _ _ _ _ hop => exact .inr (.inr ⟨i, op, program_get_mem hop, rfl⟩)
  | tick hm =>
    by_cases hw : s.waiting
    · exact .inr (.inl ⟨hm, hw, tick_of_waiting hw⟩)
    · rw [tick_of_not_waiting hw]
      exact .inl ⟨hrefl, rfl⟩
  | reset n h => exact absurd h (hm n)
  | stall k => exact .inl (stall_keepsResults k s)
  | strap | host => exact .inl ⟨⟨rfl, rfl, rfl, rfl, rfl⟩, rfl⟩

/-- LASTW, LASTW_VALID and RESG are as in `s`, or `t` is reached by the configuration write that gives their values
(10_state.md R27, R28). -/
def GhostsFollowWrite (s t : State) : Prop :=
  (t.lastw = s.lastw ∧ t.lastwValid = s.lastwValid ∧ t.resg = s.resg) ∨
  (t.seq = .configWritten ∧ t.lastw = Codec.encode t.sess ∧ t.lastwValid = true ∧ t.resg = t.sess.gain ∧
    s.Shows [.bt s.addr, .w 1, .w (t.lastw.extractLsb' 8 8), .w (t.lastw.extractLsb' 0 8), .et] t.bus)

/-- RES is as in `s`, or `t` is reached by the conversion read that gives its value (10_state.md R27). -/
def ResFollowsRead (s t : State) : Prop :=
  t.res = s.res ∨
  (t.seq = .resultReady ∧ ∃ hi lo : Byte, t.res = hi ++ lo ∧
    s.Shows [.bt s.addr, .w 0, .et, .rq s.addr 2, .rb hi, .rb lo] t.bus)

theorem WritesConfig.ghostsFollowWrite {s t : State} (h : WritesConfig s t) : GhostsFollowWrite s t := by
  obtain ⟨he, hb⟩ := h
  have hlastw : t.lastw = Codec.encode s.sess := by rw [he]
  refine .inr ⟨by rw [he], by rw [hlastw, he], by rw [he], by rw [he], ?_⟩
  rwa [hlastw]

/-- Every micro-step of a command writes RES, RESG and the ghosts only with their access. -/
theorem MicroOp.run_results {i : Instr} {op : MicroOp} (h : op ∈ program i) (s : State) :
    GhostsFollowWrite s (op.run s) ∧ ResFollowsRead s (op.run s) := by
  obtain hw | hw | ⟨p, v, _, ht, _⟩ | hst | ⟨hi, lo, ht, hb, _⟩ | ⟨st, v, _, ht⟩ := MicroOp.run_cases h s
  · exact ⟨hw.ghostsFollowWrite, .inl (by rw [hw.1])⟩
  · exact ⟨hw.ghostsFollowWrite, .inl (by rw [hw.1, setCont_res])⟩
  · rw [ht]
    exact ⟨.inl ⟨rfl, rfl, rfl⟩, .inl rfl⟩
  · rw [hst]
    exact ⟨.inl ⟨rfl, rfl, rfl⟩, .inl rfl⟩
  · refine ⟨.inl ?_, .inr ⟨by rw [ht], hi, lo, by rw [ht], hb⟩⟩
    rw [ht]
    exact ⟨rfl, rfl, rfl⟩
  · rw [ht]
    exact ⟨.inl ⟨rfl, rfl, rfl⟩, .inl rfl⟩

theorem MoveMade.results {m : Move} {s t : State} (h : MoveMade m s t) (hm : ∀ n, m ≠ .reset n) :
    GhostsFollowWrite s t ∧ ResFollowsRead s t := by
  obtain ⟨hk, _⟩ | ⟨_, _, rfl⟩ | ⟨i, op, hop, rfl⟩ := h.results_cases hm
  · exact ⟨.inl ⟨hk.lastw, hk.lastwValid, hk.resg⟩, .inl hk.res⟩
  · exact ⟨.inl ⟨rfl, rfl, rfl⟩, .inl rfl⟩
  · exact MicroOp.run_results hop s

theorem cutPending_tbRestarts (n : Nat) (s : State) : (cutPending n s).tbRestarts = s.tbRestarts := by
  obtain ⟨_, _, _, _, _, h⟩ := cutPending_frame n s
  rw [h]

/-- TMR is written by `Settle`, by a tick of the settling wait and by a reset (10_state.md R26). -/
theorem MoveMade.timer {m : Move} {s t : State} (h : MoveMade m s t) :
    (t.tmr = s.tmr ∧ t.tbRestarts = s.tbRestarts) ∨
    (m = .tick ∧ s.seq = .settling ∧ 0 < s.tmr.toNat ∧ t.tmr.toNat + 1 = s.tmr.toNat ∧
      t.tbRestarts = s.tbRestarts) ∨
    (t.seq = .settling ∧ t.tmr = Codec.delayFor (t.sess.rate.setWidth 8) ∧ t.tbRestarts = s.tbRestarts + 1) ∨
    ((∃ n, m = .reset n) ∧ t.tmr = 0 ∧ t.tbRestarts = s.tbRestarts) := by
  by_cases hm : ∃ n, m = .reset n
  · obtain ⟨n, rfl⟩ := hm
    cases h with
    | sequencer _ hm | tick hm | stall _ hm | strap _ hm | host _ hm => cases hm
    | reset n => exact .inr (.inr (.inr ⟨⟨_, rfl⟩, rfl, cutPending_tbRestarts n s⟩))
  · obtain ⟨hk, ht⟩ | ⟨hm, ⟨hs, hpos⟩, rfl⟩ | ⟨i, op, _, rfl⟩ := h.results_cases (not_exists.1 hm)
    · exact .inl ⟨ht, hk.tbRestarts⟩
    · have : 0 < s.tmr.toNat ∧ (s.tmr - 1).toNat + 1 = s.tmr.toNat := by
        have hpos : s.tmr ≠ 0 := hpos
        bv_omega
      exact .inr (.inl ⟨hm, hs, this.1, this.2, rfl⟩)
    · obtain hkeep | hsettle := op.run_tmr s
      · exact .inl hkeep
      · exact .inr (.inr (.inl hsettle))

/-! ### Who writes the session's fields -/

/-- `S'` differs from `S` at most in the fields whose column "written by" names `i` (10_state.md R20). -/
def WritesFields (i : Instr) (S S' : Session) : Prop :=
  match i with
  | .enc | .fld _ _ | .dly _ | .scl _ | .mv _ _ | .getlast | .clrlatch => S' = S
  | .setch _ | .setdf _ => S' = { S with mux := S'.mux }
  | .setgain _ => S' = { S with gain := S'.gain }
  | .setrate _ => S' = { S with rate := S'.rate }
  | .setcmode _ => S' = { S with cmode := S'.cmode }
  | .setcpol _ => S' = { S with cpol := S'.cpol }
  | .setclat _ => S' = { S with clat := S'.clat }
  | .setcque _ => S' = { S with cque := S'.cque }
  | .acq => S' = { S with mode := S'.mode, os := S'.os }
  | .rdch _ | .rddf _ => S' = { S with mux := S'.mux, mode := S'.mode, os := S'.os }
  | .cont => S' = { S with mode := S'.mode, cque := S'.cque }
  | .cmpch _ _ | .cmpchl _ _ _ | .cmpdf _ _ | .cmpdfl _ _ _ => S' = { S with mux := S'.mux, mode := S'.mode }

theorem WritesFields.refl (i : Instr) (S : Session) : WritesFields i S S := by
  cases i <;> rfl

theorem acceptSetter_sess (st : Status) (update : Session → Session) (s : State) :
    (acceptSetter st update s).sess = update s.sess := by
  simp only [acceptSetter]
  split <;> rfl

theorem acceptOf_writesFields (i : Instr) (s : State) : WritesFields i s.sess (acceptOf i s).sess := by
  cases i with
  | enc | dly | scl | mv | getlast | clrlatch | acq | cont => rfl
  | setch => simp only [acceptOf, acceptSetter_sess, WritesFields]
  | setdf | setgain | setrate | setcmode | setcpol | setclat | setcque =>
    simp only [acceptOf]
    split <;> simp [WritesFields, acceptSetter_sess, refuse]
  | fld | rdch | rddf =>
    simp only [acceptOf]
    split <;> rfl
  | cmpch | cmpchl | cmpdf | cmpdfl =>
    simp only [acceptOf, acceptComparator]
    split <;> rfl

/-- Setting MODE for a comparator start is that command's own write. -/
theorem setCont_writesFields {i : Instr} (h : .contWriteConfig ∈ program i) (s : State) :
    WritesFields i s.sess (setCont s).sess := by
  obtain ⟨t, a, b, rfl | rfl | rfl | rfl⟩ := comparator_of_contWriteConfig h <;> rfl

theorem MicroOp.run_writesFields {i : Instr} {op : MicroOp} (h : op ∈ program i) (s : State) :
    WritesFields i s.sess (op.run s).sess := by
  cases op with
  | contWriteConfig => exact setCont_writesFields h s
  | readConv =>
    simp only [MicroOp.run, advance_sess, readConv_sess]
    exact .refl i s.sess
  | writeConfig | writeReg | settle | respond | respondResult => exact .refl i s.sess

theorem acting_of_offered {s : State} {w : Cmd} {rest : List Cmd} {i : Instr} (hs : s.seq = .idle)
    (hc : s.cmds = w :: rest) (hd : decode w = .instr i) : s.acting = some i := by
  simp [State.acting, hs, hc, hd]

theorem acting_of_busy {s : State} {i : Instr} (hs : s.seq ≠ .idle) (hd : decode s.cur = .instr i) :
    s.acting = some i := by
  simp [State.acting, hs, hd]

/-- A stall's transaction begins with the session as it was, or with MODE set by the comparator start in flight. -/
theorem stall_writesFields (k : Nat) (s : State) :
    (stall k s).sess = s.sess ∨ ∃ i, s.acting = some i ∧ WritesFields i s.sess (stall k s).sess := by
  obtain ⟨_, he⟩ | ⟨tr, u, hp, he⟩ := stall_cases k s
  · exact .inl (by rw [he])
  · obtain ⟨hs, _, _, i, op, hd, hop, htr⟩ := pendingTransaction_some hp
    obtain ⟨_, _, _, hb⟩ := tr.begin_frame (tr.stallAt k) u
    rw [he, hb]
    obtain rfl | ⟨rfl, rfl⟩ := MicroOp.transaction_state htr
    · exact .inl rfl
    · exact .inr ⟨i, acting_of_busy hs hd, setCont_writesFields (program_get_mem hop) s⟩

theorem tick_sess (s : State) : (tick s).sess = s.sess := by
  unfold tick
  split <;> rfl

/-- A move that is no reset changes only fields that the acting command writes. -/
theorem MoveMade.writesFields {m : Move} {s t : State} (h : MoveMade m s t) (hm : ∀ n, m ≠ .reset n) :
    t.sess = s.sess ∨ ∃ i, s.acting = some i ∧ WritesFields i s.sess t.sess := by
  cases h with
  | sequencer t _ ht =>
    cases ht with
    | wait | stuck | settle | reserved => exact .inl rfl
    | accept w rest i hs hc hd =>
      exact .inr ⟨i, acting_of_offered hs hc hd, acceptOf_writesFields i (latch w rest s)⟩
    | micro i op hs _ hd _ hop =>
      exact .inr ⟨i, acting_of_busy hs hd, MicroOp.run_writesFields (program_get_mem hop) s⟩
  | tick => exact .inl (tick_sess s)
  | reset n h => exact absurd h (hm n)
  | stall k => exact stall_writesFields k s
  | strap | host => exact .inl rfl

/-! ### Packing -/

theorem Codec.decode_encode (S : Session) : Codec.decode (Codec.encode S) = S := by
  obtain ⟨cque, clat, cpol, cmode, rate, mode, gain, mux, os⟩ := S
  simp only [Codec.decode, Codec.encode, Session.mk.injEq]
  refine ⟨?_, ?_, ?_, ?_, ?_, ?_, ?_, ?_, ?_⟩ <;>
    (apply BitVec.eq_of_getElem_eq
     intro n hn
     simp only [BitVec.getElem_extractLsb', BitVec.getLsbD_or, BitVec.getLsbD_shiftLeft, BitVec.getLsbD_setWidth]
     interval_cases n <;> simp)

theorem Codec.encode_decode (w : Word) : Codec.encode (Codec.decode w) = w := by
  apply BitVec.eq_of_getElem_eq
  intro n hn
  simp only [Codec.encode, Codec.decode, BitVec.getElem_or, BitVec.getElem_shiftLeft, BitVec.getElem_setWidth,
    BitVec.getLsbD_extractLsb']
  interval_cases n <;> simp

end Sys2Proof.Machine

/-! ### The statements of 10_state.md -/

namespace Sys2Proof.Proofs

open Sys2Proof Sys2Proof.Machine

/-- Settles O52: each part of the invariant under each move, a command's micro-steps along its path. -/
theorem everyStepKeepsTheInvariant : Obligations.EveryStepKeepsTheInvariant := fun _ _ => step_keeps_inv

/-- Settles O53: the invariant holds along the run, and it asks for coherence in IDLE and in CONFIG_WRITTEN. -/
theorem continuousModeIsCoherentAtRest : Obligations.ContinuousModeIsCoherentAtRest := by
  intro n s t hi h
  obtain ⟨_, _, _, ⟨hwritten, hrest, _⟩, _⟩ := run_induction (P := State.Inv) (fun _ _ => step_keeps_inv) n s t hi h
  exact ⟨fun hs => hrest (.inl hs), fun hs => (hwritten (.inl hs)).2⟩

/-- Settles O38, from the phases along a micro-sequence. -/
theorem phaseChangesAreThoseOfTheTable : Obligations.PhaseChangesAreThoseOfTheTable :=
  fun _ _ hin h => (step_inv h).phase hin

/-- Settles O39, one lemma for each of the three registers under every move. -/
theorem addressAndParametersChangeOnlyAtReset : Obligations.AddressAndParametersChangeOnlyAtReset := by
  intro s t h
  have hm := step_inv h
  refine ⟨hm.cfg, fun hr => hm.addr (not_resetNext_iff.1 hr), fun hr => ?_, hm.addrSel, rfl, rfl⟩
  obtain ⟨n, hn⟩ := resetNext_iff.1 hr
  rw [hn] at hm
  exact hm.addr_of_reset

/-- Settles O43, from the accesses of the micro-steps. -/
theorem resultAndGhostRegistersChangeOnlyWithTheirAccess :
    Obligations.ResultAndGhostRegistersChangeOnlyWithTheirAccess :=
  fun _ _ hr h => (step_inv h).results (not_resetNext_iff.1 hr)

/-- Settles O46, from the writers of TMR under every move. -/
theorem timerIsWrittenOnlyBySettleTickAndReset : Obligations.TimerIsWrittenOnlyBySettleTickAndReset := by
  intro s t h
  rw [resetNext_iff]
  exact (step_inv h).timer

/-- Settles O47: an instruction accepts, waits or performs one micro-step, and none of the three reaches a port's
input. -/
theorem instructionsTouchNoPortInput : Obligations.InstructionsTouchNoPortInput := by
  intro i s t h
  have hframe : KeepsPorts s t ∧ (t.rsps = s.rsps ∨ ∃ r, t.rsps = s.rsps ++ [r]) ∧ ∃ es, t.bus = s.bus ++ es := by
    obtain ⟨_, rfl⟩ | ⟨_, rfl⟩ | ⟨_, op, _, rfl⟩ := exec_inv h
    · exact ⟨acceptOf_keepsPorts i s, acceptOf_rsps i s, [], by rw [acceptOf_bus, List.append_nil]⟩
    · exact ⟨.refl _, .inl rfl, [], (List.append_nil _).symm⟩
    · exact ⟨op.run_keepsPorts s, op.run_rsps s, op.run_bus s⟩
  obtain ⟨⟨hcfg, haddr, hsel, hcmds, hsched, hst, hcut⟩, hrsps, hbus⟩ := hframe
  exact ⟨hcfg, haddr, hsel, hcmds, hsched, hst, hcut, hrsps, hbus⟩

/-- Settles O40: the acting command and the fields it writes. -/
theorem fieldsAreWrittenOnlyByTheirCommands : Obligations.FieldsAreWrittenOnlyByTheirCommands := by
  intro s t hr h
  obtain hsess | ⟨i, hact, hw⟩ := (step_inv h).writesFields (not_resetNext_iff.1 hr)
  · simp [hsess]
  · replace hact : s.acting = some i := hact
    rw [hact]
    -- Whichever command acts, `hw` makes every field outside its rows the old one; for the others the table names it.
    cases i <;> (rw [show t.sess = _ from hw]; simp)

/-- Settles O6: bit by bit, each field at its bits. -/
theorem packingIsABijection : Obligations.PackingIsABijection := by
  have hgain : ∀ g : BitVec 3, g.ule 5 = false ↔ (g = 6 ∨ g = 7) := by decide
  exact ⟨Codec.decode_encode, Codec.encode_decode, fun w => hgain _⟩

/-- Settles O50: the fields of the default word, and for every record what its constraints say. -/
theorem powerOnResetState : Obligations.PowerOnResetState := by
  refine ⟨rfl, by decide, by decide, rfl, rfl, rfl, rfl, by decide, rfl, rfl, fun c => ⟨rfl, ?_, rfl, fun h => ?_⟩⟩
  · exact (Vector.getElem?_eq_getElem c.addrSel.isLt).symm
  · obtain ⟨_, hgain, hmode, hrate⟩ := Config.ok_spec h
    exact ⟨hgain, hmode, hrate⟩

/-- Settles O51: power-on is IDLE in single-shot mode with the timer at 0. -/
theorem invariantHoldsAtReset : Obligations.InvariantHoldsAtReset := by
  refine ⟨by decide, fun c h => ?_⟩
  obtain ⟨_, _, hmode, _⟩ := Config.ok_spec h
  exact inv_of_idle_single rfl h rfl hmode rfl

end Sys2Proof.Proofs

/-! SUPPORT. The bus (20_memory.md): which transaction a micro-step performs, how much of it a stall leaves on the
trace, what stays as it is while a primitive never completes, what the bytes of a read reach, and what a command does
as a whole. -/

namespace Sys2Proof.Machine

/-! ### A whole transaction -/

/-- All the primitives of a transaction that begins in `s` (20_memory.md R44, R45). -/
def Transaction.events (tr : Transaction) (s : State) : List BusEvent :=
  match tr with
  | .write p v => writeEvents s.addr p v
  | .read p => readHead s.addr p ++ [.rb s.rxByte, .rb s.rxDone.rxByte]

theorem Transaction.events_ne_nil (tr : Transaction) (s : State) : tr.events s ≠ [] := by
  cases tr <;> simp [Transaction.events, writeEvents, readHead]

theorem rxDone_busCut (s : State) : s.rxDone.busCut = s.busCut := by rw [rxDone_eq]

theorem rxDone_bus (s : State) : s.rxDone.bus = s.bus := by rw [rxDone_eq]

/-- A micro-step that performs a transaction adds all its primitives to the trace and leaves the session the
transaction began with. -/
theorem MicroOp.run_of_transaction {op : MicroOp} {s u : State} {tr : Transaction}
    (h : op.transaction s = some (tr, u)) (hc : s.busCut = false) :
    (op.run s).bus = s.bus ++ tr.events u ∧ (op.run s).sess = u.sess := by
  cases op <;> cases h
  case readConv =>
    refine ⟨?_, readConv_sess s⟩
    simp [MicroOp.run, Machine.readConv, memRead, Transaction.events, rxDone_bus, rxDone_busCut, hc]
  case writeConfig | contWriteConfig | writeReg =>
    exact ⟨congrArg (s.bus ++ ·) (shown_of_not_cut hc), rfl⟩

/-- A micro-step that performs none leaves trace and session as they are. -/
theorem MicroOp.run_of_no_transaction {op : MicroOp} {s : State} (h : op.transaction s = none) :
    (op.run s).bus = s.bus ∧ (op.run s).sess = s.sess := by
  cases op with
  | settle | respond | respondResult => exact ⟨rfl, rfl⟩
  | writeConfig | contWriteConfig | writeReg | readConv => cases h

/-- The transactions of the commands: writes of registers 1 to 3, reads of register 0 (20_memory.md R47). -/
theorem MicroOp.transaction_pointer {i : Instr} {op : MicroOp} {s u : State} {tr : Transaction} (hop : op ∈ program i)
    (h : op.transaction s = some (tr, u)) :
    (∃ p v, tr = .write p v ∧ (p = 1 ∨ p = 2 ∨ p = 3)) ∨ tr = .read 0 := by
  obtain rfl | ⟨rfl, _⟩ | ⟨p, v, rfl, hp⟩ | rfl | rfl | rfl | ⟨st, v, rfl, _⟩ := program_mem hop <;> cases h
  · exact .inl ⟨1, _, rfl, .inl rfl⟩
  · exact .inl ⟨1, _, rfl, .inl rfl⟩
  · exact .inl ⟨p, v, rfl, .inr hp⟩
  · exact .inr rfl

/-! ### A stalled transaction -/

theorem Transaction.stallAt_pos (k : Nat) (tr : Transaction) : 0 < tr.stallAt k := by
  cases tr with
  | write => exact Nat.lt_min.2 ⟨Nat.succ_pos k, by decide⟩
  | read =>
    simp only [Transaction.stallAt]
    split <;> omega

/-- A stall leaves the first primitives of the transaction on the trace. -/
theorem Transaction.begin_stallAt_bus (k : Nat) (tr : Transaction) {s : State} (hc : s.busCut = false) :
    (tr.begin (tr.stallAt k) s).bus = s.bus ++ (tr.events s).take (tr.stallAt k) := by
  cases tr with
  | write p v => exact congrArg (s.bus ++ ·) (shown_of_not_cut hc)
  | read p =>
    simp only [Transaction.begin, Transaction.events]
    split
    · next hle =>
      rw [emit_bus, shown_of_not_cut hc, List.take_append_of_le_length (by simpa [readHead] using hle)]
    · next hlt =>
      have h5 : (Transaction.read p).stallAt k = 5 := by
        simp only [Transaction.stallAt] at hlt ⊢
        split at hlt <;> split <;> omega
      rw [h5, emit_bus, shown_of_not_cut (by rw [rxDone_busCut, hc]), rxDone_bus]
      rfl

theorem tick_bus (s : State) : (tick s).bus = s.bus := by
  unfold tick
  split <;> rfl

/-- A move that is no reset leaves the trace, performs the transaction of a command's micro-step, or stalls it. -/
theorem MoveMade.transaction {m : Move} {s t : State} (h : MoveMade m s t) (hm : ∀ n, m ≠ .reset n) :
    t.bus = s.bus ∨
    ∃ i op tr u, op ∈ program i ∧ op.transaction s = some (tr, u) ∧
      ((m = .sequencer ∧ t = op.run s) ∨
        ∃ k, m = .stall k ∧ t = { tr.begin (tr.stallAt k) u with stalled := true }) := by
  cases h with
  | sequencer t hm ht =>
    cases ht with
    | wait | stuck | settle | reserved => exact .inl rfl
    | accept w rest i => exact .inl (acceptOf_bus i _)
    | micro i op _ _ _ _ hop =>
      cases htr : op.transaction s with
      | none => exact .inl (MicroOp.run_of_no_transaction htr).1
      | some x => exact .inr ⟨i, op, x.1, x.2, program_get_mem hop, htr, .inl ⟨hm, rfl⟩⟩
  | tick => exact .inl (tick_bus s)
  | reset n h => exact absurd h (hm n)
  | stall k hm =>
    obtain ⟨_, he⟩ | ⟨tr, u, hp, he⟩ := stall_cases k s
    · exact .inl (by rw [he])
    · obtain ⟨_, _, _, i, op, _, hop, htr⟩ := pendingTransaction_some hp
      exact .inr ⟨i, op, tr, u, program_get_mem hop, htr, .inr ⟨k, hm, he⟩⟩
  | strap | host => exact .inl rfl

theorem MicroOp.transaction_addr {op : MicroOp} {s u : State} {tr : Transaction}
    (h : op.transaction s = some (tr, u)) : u.addr = s.addr ∧ u.bus = s.bus ∧ u.busCut = s.busCut := by
  obtain rfl | ⟨_, rfl⟩ := op.transaction_state h <;> exact ⟨rfl, rfl, rfl⟩

/-- How many primitives a stall leaves, by how many the transaction has. -/
theorem Transaction.stallAt_eq (k : Nat) (tr : Transaction) (s : State) :
    tr.stallAt k = if (tr.events s).length = 5 then min (k + 1) 5 else if k < 4 then k + 1 else min k 5 := by
  cases tr <;> rfl

/-- A stall of a pending transaction before any cut: its first primitives, the session it begins with, and the mark. -/
theorem stall_of_pending (k : Nat) {s v : State} {tr : Transaction} (hp : pendingTransaction s = some (tr, v))
    (hc : s.busCut = false) :
    ∃ r j, stall k s = { s with
      bus := s.bus ++ (tr.events v).take (tr.stallAt k), stalled := true, sess := v.sess, rx := r, freeIdx := j } := by
  have hv := pendingTransaction_state hp
  have hbus := tr.begin_stallAt_bus k (s := v) (by rw [hv]; exact hc)
  obtain ⟨fs, r, j, hb⟩ := tr.begin_frame (tr.stallAt k) v
  rw [hb] at hbus
  refine ⟨r, j, ?_⟩
  simp only [stall, hp]
  rw [hb, hbus, hv]

/-- A step of a command in flight leaves trace and session, no transaction pending, or performs the pending one. -/
theorem sequencerStep_transaction {s u : State} (hs : s.seq ≠ .idle) (hst : s.stalled = false) (hc : s.busCut = false)
    (h : sequencerStep s = .next u) :
    (u.bus = s.bus ∧ u.sess = s.sess ∧ pendingTransaction s = none) ∨
    ∃ tr v, u.bus = s.bus ++ tr.events v ∧ u.sess = v.sess ∧ pendingTransaction s = some (tr, v) := by
  cases sequencerStep_inv h with
  | wait hi | accept _ _ _ hi | reserved _ _ _ hi => exact absurd hi hs
  | stuck _ hst' => simp [hst] at hst'
  | settle i _ _ hd hw => exact .inl ⟨rfl, rfl, if_pos (.inr (.inl hw))⟩
  | micro i op _ _ hd hw hop =>
    rw [pendingTransaction_of hs hw hst hd hop]
    cases htr : op.transaction s with
    | none =>
      obtain ⟨hbus, hsess⟩ := MicroOp.run_of_no_transaction htr
      exact .inl ⟨hbus, hsess, rfl⟩
    | some x =>
      obtain ⟨hbus, hsess⟩ := MicroOp.run_of_transaction htr hc
      exact .inr ⟨x.1, x.2, hbus, hsess, rfl⟩

/-! ### A stalled machine -/

/-- While a primitive is stalled in flight no transaction is pending. -/
theorem pendingTransaction_of_stalled {s : State} (h : s.stalled = true) : pendingTransaction s = none := by
  simp [pendingTransaction, h]

/-- While a primitive is stalled in flight no move but a reset changes more than a port's input. -/
theorem applyMove_of_stalled {m : Move} {s : State} (hst : s.stalled = true) (hs : s.seq ≠ .idle) (ht : s.tmr = 0)
    (hm : ∀ k, m ≠ .reset k) : ∃ c a, applyMove m s = .next { s with cmds := c, addrSel := a } := by
  cases m with
  | sequencer => exact ⟨s.cmds, s.addrSel, sequencerStep_stalled hs hst⟩
  | tick => exact ⟨s.cmds, s.addrSel, congrArg _ (tick_of_not_waiting fun hw => hw.2 ht)⟩
  | reset k => exact absurd rfl (hm k)
  | stall k => exact ⟨s.cmds, s.addrSel, by simp [applyMove, stall, pendingTransaction_of_stalled hst]⟩
  | strap | host => exact ⟨_, _, rfl⟩

/-- With the timer at 0 the next move is a reset only where one is scheduled first. -/
theorem nextMove_ne_reset {s : State} (ht : s.tmr = 0) (h : ∀ m ∈ s.sched.head?, ∀ k, m ≠ .reset k) (k : Nat) :
    nextMove s ≠ .reset k := by
  cases hsc : s.sched with
  | nil =>
    rw [nextMove_nil hsc fun hw => hw.2 ht]
    nofun
  | cons m r =>
    rw [nextMove_cons hsc]
    exact h m (by simp [hsc]) k

/-- Nor do several moves, none of them a reset (20_memory.md R55). -/
theorem run_of_stalled (n : Nat) (s : State) (hst : s.stalled = true) (hs : s.seq ≠ .idle) (ht : s.tmr = 0)
    (hm : ∀ m ∈ s.sched.take n, ∀ k, m ≠ .reset k) :
    ∃ c a, Host.Core.run Sys2Proof.core n s =
      .next { s with sched := s.sched.drop n, cmds := c, addrSel := a } := by
  induction n generalizing s with
  | zero => exact ⟨s.cmds, s.addrSel, rfl⟩
  | succ n ih =>
    have hhead : ∀ m ∈ s.sched.head?, ∀ k, m ≠ .reset k := fun m h =>
      hm m (List.mem_of_mem_head? (by rwa [List.head?_take, if_neg (Nat.succ_ne_zero n)]))
    have htail : ∀ m ∈ s.sched.tail.take n, ∀ k, m ≠ .reset k := fun m h =>
      hm m (List.mem_of_mem_tail (by simpa [List.tail_take_eq_take_tail] using h))
    obtain ⟨c, a, hu⟩ :=
      applyMove_of_stalled (s := { s with sched := s.sched.tail }) hst hs ht (nextMove_ne_reset ht hhead)
    obtain ⟨c', a', hrun⟩ := ih { s with sched := s.sched.tail, cmds := c, addrSel := a } hst hs ht htail
    exact ⟨c', a', (run_succ hu).trans (by rw [hrun, List.drop_tail])⟩

/-! ### States that differ in what reads returned -/

/-- The second of two states that are the same but for reads, written out over the first. -/
theorem State.SameButForReads.elim {s s' : State} (h : s.SameButForReads s') :
    ∃ x r k c u a b,
      s' = { s with rx := x, res := r, freeIdx := k, cur := c, upc := u, rsps := a, bus := b } ∧
      (s.seq ≠ .idle → c = s.cur ∧ u = s.upc) ∧
      List.Forall₂ (fun a a' : Rsp => a.extractLsb' 32 2 = a'.extractLsb' 32 2) s.rsps a ∧
      (s.busCut = false → List.Forall₂ SameButReadByte s.bus b) :=
  ⟨_, _, _, _, _, _, _, h⟩

theorem sameButReadByte_refl (es : List BusEvent) : List.Forall₂ SameButReadByte es es :=
  List.forall₂_same.2 fun e _ => by cases e <;> trivial

/-- The status bits of a response do not depend on its value (30_encoding.md R66). -/
theorem rspWord_status (st : Status) (v v' : BitVec 32) :
    (rspWord st v).extractLsb' 32 2 = (rspWord st v').extractLsb' 32 2 := by
  apply BitVec.eq_of_getElem_eq
  intro n hn
  simp [rspWord]

/-! ### Operations on two such states -/

theorem State.SameButForReads.busCut {s s' : State} (h : s.SameButForReads s') : s'.busCut = s.busCut := by rw [h.1]
theorem State.SameButForReads.addr {s s' : State} (h : s.SameButForReads s') : s'.addr = s.addr := by rw [h.1]
theorem State.SameButForReads.seq {s s' : State} (h : s.SameButForReads s') : s'.seq = s.seq := by rw [h.1]
theorem State.SameButForReads.sess {s s' : State} (h : s.SameButForReads s') : s'.sess = s.sess := by rw [h.1]
theorem State.SameButForReads.cmds {s s' : State} (h : s.SameButForReads s') : s'.cmds = s.cmds := by rw [h.1]
theorem State.SameButForReads.tmr {s s' : State} (h : s.SameButForReads s') : s'.tmr = s.tmr := by rw [h.1]
theorem State.SameButForReads.stalled {s s' : State} (h : s.SameButForReads s') : s'.stalled = s.stalled := by rw [h.1]

theorem State.SameButForReads.waiting_iff {s s' : State} (h : s.SameButForReads s') : s'.waiting ↔ s.waiting := by
  rw [State.waiting, h.seq, h.tmr]

theorem State.SameButForReads.emit {s s' : State} {es es' : List BusEvent} (h : s.SameButForReads s')
    (hes : List.Forall₂ SameButReadByte es es') : (s.emit es).SameButForReads (s'.emit es') := by
  have hbus (hc : s.busCut = false) : List.Forall₂ SameButReadByte (s.emit es).bus (s'.emit es').bus := by
    rw [emit_bus, emit_bus, shown_of_not_cut hc, shown_of_not_cut (h.busCut.trans hc)]
    exact List.rel_append (h.2.2.2 hc) hes
  obtain ⟨x, r, k, c, u, a, b, rfl, hcur, hrsps, _⟩ := h.elim
  exact ⟨rfl, hcur, hrsps, hbus⟩

theorem State.SameButForReads.rxDone {s s' : State} (h : s.SameButForReads s') :
    s.rxDone.SameButForReads s'.rxDone := by
  obtain ⟨x, r, k, c, u, a, b, he, hcur, hrsps, hbus⟩ := h.elim
  rw [rxDone_eq s, rxDone_eq s', he]
  exact ⟨rfl, hcur, hrsps, hbus⟩

theorem State.SameButForReads.advance {s s' : State} (h : s.SameButForReads s') :
    s.advance.SameButForReads s'.advance := by
  obtain ⟨x, r, k, c, u, a, b, rfl, hcur, hrsps, hbus⟩ := h.elim
  exact ⟨rfl, fun hs => ⟨(hcur hs).1, congrArg (· + 1) (hcur hs).2⟩, hrsps, hbus⟩

/-- Latching a command makes CUR and UPC the same again. -/
theorem State.SameButForReads.latch {s s' : State} (h : s.SameButForReads s') (w : Cmd) (rest : List Cmd) :
    (latch w rest s).SameButForReads (latch w rest s') := by
  obtain ⟨x, r, k, c, u, a, b, rfl, _, hrsps, hbus⟩ := h.elim
  exact ⟨rfl, fun _ => ⟨rfl, rfl⟩, hrsps, hbus⟩

theorem State.SameButForReads.withSess {s s' : State} (h : s.SameButForReads s') (S : Session) :
    { s with sess := S }.SameButForReads { s' with sess := S } := by
  obtain ⟨x, r, k, c, u, a, b, rfl, hcur, hrsps, hbus⟩ := h.elim
  exact ⟨rfl, hcur, hrsps, hbus⟩

theorem State.SameButForReads.setCont {s s' : State} (h : s.SameButForReads s') :
    (setCont s).SameButForReads (setCont s') := by
  obtain ⟨x, r, k, c, u, a, b, rfl, hcur, hrsps, hbus⟩ := h.elim
  exact ⟨rfl, hcur, hrsps, hbus⟩

theorem State.SameButForReads.issue {s s' : State} (h : s.SameButForReads s') (hcur : s'.cur = s.cur) :
    (issue s).SameButForReads (issue s') := by
  obtain ⟨x, r, k, c, u, a, b, rfl, _, hrsps, hbus⟩ := h.elim
  exact ⟨rfl, fun _ => ⟨hcur, rfl⟩, hrsps, hbus⟩

/-- Responses with the same status leave the states the same but for reads, whatever values they carry. -/
theorem State.SameButForReads.respond {s s' : State} (h : s.SameButForReads s') (st : Status) (v v' : BitVec 32) :
    (respond st v s).SameButForReads (respond st v' s') := by
  obtain ⟨x, r, k, c, u, a, b, rfl, _, hrsps, hbus⟩ := h.elim
  exact ⟨rfl, fun hs => absurd rfl hs, List.rel_append hrsps (.cons (rspWord_status st v v') .nil), hbus⟩

theorem State.SameButForReads.settle {s s' : State} (h : s.SameButForReads s') (hs : s.seq ≠ .idle) :
    (settle s).SameButForReads (settle s') := by
  obtain ⟨x, r, k, c, u, a, b, rfl, hcur, hrsps, hbus⟩ := h.elim
  exact ⟨rfl, fun _ => hcur hs, hrsps, hbus⟩

theorem State.SameButForReads.memWrite {s s' : State} (h : s.SameButForReads s') (p : Byte) (v : Word) :
    (memWrite p v s).SameButForReads (memWrite p v s') := by
  rw [Machine.memWrite, Machine.memWrite, h.addr]
  exact h.emit (sameButReadByte_refl _)

theorem State.SameButForReads.writeConfig {s s' : State} (h : s.SameButForReads s') (hs : s.seq ≠ .idle) :
    (writeConfig s).SameButForReads (writeConfig s') := by
  have hbus := (h.memWrite ptrConfig (Codec.encode s.sess)).2.2.2
  obtain ⟨x, r, k, c, u, a, b, rfl, hcur, hrsps, _⟩ := h.elim
  exact ⟨rfl, fun _ => hcur hs, hrsps, hbus⟩

/-- RES may differ as it pleases. -/
theorem State.SameButForReads.resultReady {s s' : State} (h : s.SameButForReads s') (hs : s.seq ≠ .idle)
    (v v' : Word) :
    { s with res := v, seq := .resultReady }.SameButForReads { s' with res := v', seq := .resultReady } := by
  obtain ⟨x, r, k, c, u, a, b, rfl, hcur, hrsps, hbus⟩ := h.elim
  exact ⟨rfl, fun _ => hcur hs, hrsps, hbus⟩

theorem State.SameButForReads.readConv {s s' : State} (h : s.SameButForReads s') (hs : s.seq ≠ .idle) :
    (readConv s).SameButForReads (readConv s') := by
  have hes : List.Forall₂ SameButReadByte (readHead s.addr ptrConv ++ [.rb s.rxByte, .rb s.rxDone.rxByte])
      (readHead s'.addr ptrConv ++ [.rb s'.rxByte, .rb s'.rxDone.rxByte]) := by
    rw [h.addr]
    exact List.rel_append (sameButReadByte_refl _) (.cons trivial (.cons trivial .nil))
  have hs' : (s.rxDone.rxDone.emit (readHead s.addr ptrConv ++ [.rb s.rxByte, .rb s.rxDone.rxByte])).seq ≠ .idle := by
    rwa [emit_seq, rxDone_eq, rxDone_eq]
  exact (h.rxDone.rxDone.emit hes).resultReady hs' _ _

theorem State.SameButForReads.tick {s s' : State} (h : s.SameButForReads s') :
    (tick s).SameButForReads (tick s') := by
  by_cases hw : s.waiting
  · rw [tick_of_waiting hw, tick_of_waiting (h.waiting_iff.2 hw)]
    obtain ⟨x, r, k, c, u, a, b, rfl, hcur, hrsps, hbus⟩ := h.elim
    exact ⟨rfl, hcur, hrsps, hbus⟩
  · rwa [tick_of_not_waiting hw, tick_of_not_waiting (mt h.waiting_iff.1 hw)]

/-! ### Micro-steps and accepts -/

/-- `t` and `t'` have the same responses more than `s` and `s'`. -/
def AddSameResponses (s t s' t' : State) : Prop := ∃ added, t.rsps = s.rsps ++ added ∧ t'.rsps = s'.rsps ++ added

theorem addSameResponses_of_none {s t s' t' : State} (h : t.rsps = s.rsps) (h' : t'.rsps = s'.rsps) :
    AddSameResponses s t s' t' := ⟨[], by rw [h, List.append_nil], by rw [h', List.append_nil]⟩

theorem MicroOp.run_sameButForReads (op : MicroOp) {s s' : State} (h : s.SameButForReads s') (hs : s.seq ≠ .idle) :
    (op.run s).SameButForReads (op.run s') := by
  cases op with
  | writeConfig => exact (h.writeConfig hs).advance
  | contWriteConfig => exact (h.setCont.writeConfig hs).advance
  | writeReg p v => exact (h.memWrite p v).advance
  | settle => exact (h.settle hs).advance
  | readConv => exact (h.readConv hs).advance
  | respond st v => exact h.respond st v v
  | respondResult => exact h.respond .ok _ _

/-- Only the response that carries a conversion result depends on what was read. -/
theorem MicroOp.run_addSameResponses {op : MicroOp} (hop : op ≠ .respondResult) (s s' : State) :
    AddSameResponses s (op.run s) s' (op.run s') := by
  cases op with
  | respond st v => exact ⟨[rspWord st v], rfl, rfl⟩
  | respondResult => exact absurd rfl hop
  | readConv => exact addSameResponses_of_none (readConv_rsps s) (readConv_rsps s')
  | writeConfig | contWriteConfig | writeReg | settle => exact addSameResponses_of_none rfl rfl

theorem ne_respondResult_of_not_returnsCode {i : Instr} {op : MicroOp} (h : op ∈ program i)
    (hi : returnsCode i = false) : op ≠ .respondResult := by
  rintro rfl
  cases i <;> simp [program, setterProgram, contProgram, comparatorProgram, clrlatchProgram, returnsCode] at h hi

/-- Two states in which a command is accepted in the same way. -/
inductive AcceptedAlike (s s' : State) : State → State → Prop where
  | answered (S : Session) (st : Status) (v : BitVec 32) :
      AcceptedAlike s s' (respond st v { s with sess := S }) (respond st v { s' with sess := S })
  | issued (S : Session) : AcceptedAlike s s' (issue { s with sess := S }) (issue { s' with sess := S })

theorem acceptSetter_alike (st : Status) (update : Session → Session) {s s' : State} (h : s.SameButForReads s') :
    AcceptedAlike s s' (acceptSetter st update s) (acceptSetter st update s') := by
  obtain ⟨x, r, k, c, u, a, b, rfl, _⟩ := h.elim
  simp only [acceptSetter]
  split
  · exact .answered _ st 0
  · exact .issued _

theorem refuse_alike {s s' : State} (h : s.SameButForReads s') : AcceptedAlike s s' (refuse s) (refuse s') := by
  obtain ⟨x, r, k, c, u, a, b, rfl, _⟩ := h.elim
  exact .answered s.sess _ _

theorem acceptOf_alike (i : Instr) {s s' : State} (h : s.SameButForReads s') :
    AcceptedAlike s s' (acceptOf i s) (acceptOf i s') := by
  have hset := fun st update => acceptSetter_alike st update h
  have href := refuse_alike h
  obtain ⟨x, r, k, c, u, a, b, rfl, _⟩ := h.elim
  cases i with
  | enc | dly | scl | mv => exact .answered s.sess _ _
  | fld =>
    simp only [acceptOf]
    split
    · exact .answered s.sess _ _
    · exact href
  | setch =>
    simp only [acceptOf]
    exact hset _ _
  | setdf =>
    simp only [acceptOf]
    split
    · exact hset _ _
    · exact href
  | setgain | setrate | setcmode | setcpol | setclat | setcque =>
    simp only [acceptOf]
    split
    · exact href
    · exact hset _ _
  | acq | cont => exact .issued _
  | rdch | rddf =>
    simp only [acceptOf]
    split
    · exact .issued _
    · exact href
  | cmpch | cmpchl | cmpdf | cmpdfl =>
    simp only [acceptOf, acceptComparator]
    split
    · exact .issued _
    · exact href
  | getlast | clrlatch => exact .issued s.sess

theorem AcceptedAlike.sameButForReads {s s' t t' : State} (h : AcceptedAlike s s' t t') (hss : s.SameButForReads s')
    (hcur : s'.cur = s.cur) : t.SameButForReads t' := by
  cases h with
  | answered S st v => exact (hss.withSess S).respond st v v
  | issued S => exact (hss.withSess S).issue hcur

theorem AcceptedAlike.addSameResponses {s s' t t' : State} (h : AcceptedAlike s s' t t') :
    AddSameResponses s t s' t' := by
  cases h with
  | answered S st v => exact ⟨[rspWord st v], rfl, rfl⟩
  | issued S => exact addSameResponses_of_none rfl rfl

/-! ### Moves -/

/-- Both states are about to perform no transaction, or the same one. -/
inductive SameTransaction : Option (Transaction × State) → Option (Transaction × State) → Prop where
  | none : SameTransaction none none
  | some (tr : Transaction) {u u' : State} (h : u.SameButForReads u') : SameTransaction (some (tr, u)) (some (tr, u'))

theorem MicroOp.sameTransaction (op : MicroOp) {s s' : State} (h : s.SameButForReads s') :
    SameTransaction (op.transaction s) (op.transaction s') := by
  cases op with
  | writeConfig =>
    rw [MicroOp.transaction, MicroOp.transaction, h.sess]
    exact .some _ h
  | contWriteConfig =>
    rw [MicroOp.transaction, MicroOp.transaction, h.setCont.sess]
    exact .some _ h.setCont
  | writeReg | readConv => exact .some _ h
  | settle | respond | respondResult => exact .none

theorem pendingTransaction_same {s s' : State} (h : s.SameButForReads s') :
    SameTransaction (pendingTransaction s) (pendingTransaction s') := by
  have hiff : (s'.seq = .idle ∨ s'.waiting ∨ s'.stalled = true) ↔ (s.seq = .idle ∨ s.waiting ∨ s.stalled = true) := by
    rw [h.seq, h.stalled, h.waiting_iff]
  unfold pendingTransaction
  by_cases hn : s.seq = .idle ∨ s.waiting ∨ s.stalled = true
  · rw [if_pos hn, if_pos (hiff.2 hn)]
    exact .none
  · rw [if_neg hn, if_neg (mt hiff.1 hn)]
    obtain ⟨hcur, hupc⟩ := h.2.1 fun hs => hn (.inl hs)
    rw [hcur, hupc]
    cases decode s.cur with
    | reserved => exact .none
    | instr i =>
      cases hop : (program i)[s.upc.toNat]? with
      | none => simpa [hop] using SameTransaction.none
      | some op => simpa [hop] using op.sameTransaction h

theorem Transaction.begin_sameButForReads (n : Nat) (tr : Transaction) {s s' : State} (h : s.SameButForReads s') :
    (tr.begin n s).SameButForReads (tr.begin n s') := by
  cases tr with
  | write p v =>
    simp only [Transaction.begin, h.addr]
    exact h.emit (sameButReadByte_refl _)
  | read p =>
    simp only [Transaction.begin, h.addr]
    split
    · exact h.emit (sameButReadByte_refl _)
    · exact h.rxDone.emit (List.rel_append (sameButReadByte_refl _) (.cons trivial .nil))

theorem stall_sameButForReads (k : Nat) {s s' : State} (h : s.SameButForReads s') :
    (stall k s).SameButForReads (stall k s') := by
  have hp := pendingTransaction_same h
  unfold stall
  generalize pendingTransaction s = o, pendingTransaction s' = o' at hp
  cases hp with
  | none => exact h
  | some tr hu =>
    obtain ⟨x, r, j, c, u, a, b, he, hcur, hrsps, hbus⟩ := (tr.begin_sameButForReads (tr.stallAt k) hu).elim
    simp only [he]
    exact ⟨rfl, hcur, hrsps, hbus⟩

theorem tick_rsps (s : State) : (tick s).rsps = s.rsps := by
  unfold tick
  split <;> rfl

theorem stall_rsps (k : Nat) (s : State) : (stall k s).rsps = s.rsps := by
  obtain ⟨_, _, _, _, _, h⟩ := stall_frame k s
  rw [h]

/-- The answer of `s'` to a move by which `s` becomes `t`: related to `t`, and with the same responses more where the
acting command returns no code. -/
def AnswersAlike (s t s' : State) (o : Host.Outcome State Fault Refusal) : Prop :=
  ∃ t', o = .next t' ∧ t.SameButForReads t' ∧
    ((∀ i, s.acting = some i → returnsCode i = false) → AddSameResponses s t s' t')

theorem SequencerStep.answersAlike {s s' t : State} (h : s.SameButForReads s') (ht : SequencerStep s t) :
    AnswersAlike s t s' (sequencerStep s') := by
  cases ht with
  | wait hs hc =>
    exact ⟨s', sequencerStep_none_offered (h.seq.trans hs) (h.cmds.trans hc), h,
      fun _ => addSameResponses_of_none rfl rfl⟩
  | accept w rest i hs hc hd =>
    have ha := acceptOf_alike i (h.latch w rest)
    refine ⟨acceptOf i (latch w rest s'), ?_, ha.sameButForReads (h.latch w rest) rfl, fun _ => ha.addSameResponses⟩
    rw [sequencerStep_accept (h.seq.trans hs) (h.cmds.trans hc) hd]
    exact exec_idle i (h.seq.trans hs)
  | reserved w rest op hs hc hd =>
    exact ⟨respond .reserved 0 (latch w rest s'), sequencerStep_reserved (h.seq.trans hs) (h.cmds.trans hc) hd,
      (h.latch w rest).respond _ _ _, fun _ => ⟨[rspWord .reserved 0], rfl, rfl⟩⟩
  | stuck hs hst =>
    exact ⟨s', sequencerStep_stalled (by rwa [h.seq]) (h.stalled.trans hst), h,
      fun _ => addSameResponses_of_none rfl rfl⟩
  | settle i hs hst hd hw =>
    have hd' : decode s'.cur = .instr i := by rw [(h.2.1 hs).1, hd]
    refine ⟨s', ?_, h, fun _ => addSameResponses_of_none rfl rfl⟩
    rw [sequencerStep_in_flight (by rwa [h.seq]) (h.stalled.trans hst) hd']
    exact exec_waiting i (h.waiting_iff.2 hw)
  | micro i op hs hst hd hw hop =>
    obtain ⟨hcur, hupc⟩ := h.2.1 hs
    have hs' : s'.seq ≠ .idle := by rwa [h.seq]
    refine ⟨op.run s', ?_, op.run_sameButForReads h hs, fun hi => ?_⟩
    · rw [sequencerStep_in_flight hs' (h.stalled.trans hst) (by rw [hcur, hd])]
      exact exec_busy_op i hs' (mt h.waiting_iff.1 hw) (by rw [hupc, hop])
    · have hcode := hi i (acting_of_busy hs hd)
      exact op.run_addSameResponses (ne_respondResult_of_not_returnsCode (program_get_mem hop) hcode) s s'

theorem MoveMade.answersAlike {m : Move} {s s' t : State} (h : s.SameButForReads s') (ht : MoveMade m s t)
    (hm : ∀ n, m ≠ .reset n) : AnswersAlike s t s' (applyMove m s') := by
  cases ht with
  | sequencer t hm ht =>
    rw [hm]
    exact ht.answersAlike h
  | tick hm =>
    rw [hm]
    exact ⟨Machine.tick s', rfl, h.tick, fun _ => addSameResponses_of_none (tick_rsps s) (tick_rsps s')⟩
  | reset n h => exact absurd h (hm n)
  | stall k hm =>
    rw [hm]
    exact ⟨Machine.stall k s', rfl, stall_sameButForReads k h,
      fun _ => addSameResponses_of_none (stall_rsps k s) (stall_rsps k s')⟩
  | strap l hm =>
    rw [hm]
    obtain ⟨x, r, j, c, u, a, b, rfl, hcur, hrsps, hbus⟩ := h.elim
    exact ⟨_, rfl, ⟨rfl, hcur, hrsps, hbus⟩, fun _ => addSameResponses_of_none rfl rfl⟩
  | host w hm =>
    rw [hm]
    obtain ⟨x, r, j, c, u, a, b, rfl, hcur, hrsps, hbus⟩ := h.elim
    exact ⟨_, rfl, ⟨rfl, hcur, hrsps, hbus⟩, fun _ => addSameResponses_of_none rfl rfl⟩

theorem State.SameButForReads.popped {s s' : State} (h : s.SameButForReads s') :
    { s with sched := s.sched.tail }.SameButForReads { s' with sched := s'.sched.tail } := by
  obtain ⟨x, r, j, c, u, a, b, rfl, hcur, hrsps, hbus⟩ := h.elim
  exact ⟨rfl, hcur, hrsps, hbus⟩

theorem State.SameButForReads.nextMove {s s' : State} (h : s.SameButForReads s') : nextMove s' = nextMove s := by
  obtain ⟨x, r, j, c, u, a, b, rfl, _⟩ := h.elim
  rfl

/-! ### Running a micro-sequence in the default order -/

theorem State.Shows.trans {s u : State} {es fs b : List BusEvent} (h : s.Shows es u.bus) (hc : u.busCut = s.busCut)
    (h' : u.Shows fs b) : s.Shows (es ++ fs) b := by
  obtain ⟨hes, es', hes'⟩ := h
  obtain ⟨hfs, fs', hfs'⟩ := h'
  refine ⟨fun hn => ?_, es' ++ fs', ?_⟩
  · rw [hfs (hc.trans hn), hes hn, List.append_assoc]
  · rw [hfs', hes', List.append_assoc]

/-- In `s` a command is in flight, enabled, with no move scheduled ahead (log 6) and nothing stalled (log 15), and `ops`
are the micro-steps it has yet to perform. -/
structure Runs (ops : List MicroOp) (s : State) : Prop where
  busy : s.seq ≠ .idle
  ready : ¬ s.waiting
  moving : s.stalled = false
  sched : s.sched = []
  ops : ∃ i, decode s.cur = .instr i ∧ (program i).drop s.upc.toNat = ops

theorem program_length_le (i : Instr) : (program i).length ≤ 4 := by
  cases i <;> simp [program, setterProgram, acquireProgram, contProgram, getlastProgram, comparatorProgram,
    clrlatchProgram]

/-- An accepted command has its whole program to run. -/
theorem runs_issue {s : State} {i : Instr} (hst : s.stalled = false) (hsc : s.sched = [])
    (hd : decode s.cur = .instr i) : Runs (program i) (issue s) :=
  ⟨nofun, (nomatch ·.1), hst, hsc, i, hd, rfl⟩

/-- The next micro-step is performed by the next step. -/
theorem Runs.run_cons {op : MicroOp} {ops : List MicroOp} {s : State} (h : Runs (op :: ops) s) (k : Nat) :
    Host.Core.run Sys2Proof.core (k + 1) s = Host.Core.run Sys2Proof.core k (op.run s) := by
  obtain ⟨hs, hw, hst, hsc, i, hd, hops⟩ := h
  have hop : (program i)[s.upc.toNat]? = some op := by rw [← List.head?_drop, hops, List.head?_cons]
  have hstep : step s = .next (op.run s) := by
    rw [step_of_sched_nil hsc, nextMove_nil hsc hw]
    exact (sequencerStep_in_flight hs hst hd).trans (exec_busy_op i hs hw hop)
  exact run_succ hstep

/-- UPC then names the one after it. -/
theorem drop_upc_succ {i : Instr} {op : MicroOp} {ops : List MicroOp} {upc : BitVec 4}
    (h : (program i).drop upc.toNat = op :: ops) : (program i).drop (upc + 1).toNat = ops := by
  have hlt : upc.toNat < (program i).length := by
    by_contra hge
    rw [List.drop_eq_nil_of_le (by omega)] at h
    cases h
  have hle := program_length_le i
  have hupc : (upc + 1).toNat = upc.toNat + 1 := by
    rw [BitVec.toNat_add]
    exact Nat.mod_eq_of_lt (by simp; omega)
  rw [hupc, ← List.tail_drop, h, List.tail_cons]

/-- After a micro-step with a transaction the command runs on. -/
theorem Runs.tail {op : MicroOp} {ops : List MicroOp} {s : State} {x : Transaction × State} (h : Runs (op :: ops) s)
    (htr : op.transaction s = some x) : Runs ops (op.run s) := by
  obtain ⟨hs, hw, hst, hsc, i, hd, hops⟩ := h
  have hbusy : (op.run s).seq ≠ .idle ∧ ¬ (op.run s).waiting := by
    cases op with
    | writeConfig | contWriteConfig | readConv => exact ⟨nofun, (nomatch ·.1)⟩
    | writeReg => exact ⟨hs, hw⟩
    | settle | respond | respondResult => cases htr
  have hk := op.run_keepsPorts s
  refine ⟨hbusy.1, hbusy.2, hk.stalled.trans hst, hk.sched.trans hsc, i, ?_, ?_⟩
  · rw [MicroOp.run_cur_of_busy hbusy.1, hd]
  · rw [MicroOp.run_upc_of_busy hbusy.1, drop_upc_succ hops]

/-- The settling wait takes as many ticks as the timer holds (42_single_shot.md R119). -/
theorem run_ticks (k d : Nat) {s : State} (hs : s.seq = .settling) (hsc : s.sched = []) (hd : s.tmr.toNat = d) :
    Host.Core.run Sys2Proof.core (k + d) s = Host.Core.run Sys2Proof.core k { s with tmr := 0 } := by
  induction d generalizing s with
  | zero =>
    have ht : s.tmr = 0 := BitVec.eq_of_toNat_eq hd
    rw [← ht]
    rfl
  | succ d ih =>
    have hw : s.waiting := ⟨hs, fun h0 => by simp [h0] at hd⟩
    have hstep : step s = .next { s with tmr := s.tmr - 1 } := by
      rw [step_of_sched_nil hsc, nextMove_nil_waiting hsc hw, ← tick_of_waiting hw]
      rfl
    rw [← Nat.add_assoc, run_succ hstep]
    exact ih hs hsc (by bv_omega)

/-- `Settle` with its wait over. -/
def settled (s : State) : State := { MicroOp.settle.run s with tmr := 0 }

theorem Runs.run_settle {ops : List MicroOp} {s : State} (h : Runs (.settle :: ops) s) (k : Nat) :
    Host.Core.run Sys2Proof.core (k + (Codec.delayFor (s.sess.rate.setWidth 8)).toNat + 1) s =
      Host.Core.run Sys2Proof.core k (settled s) := by
  rw [h.run_cons]
  exact run_ticks k _ rfl h.sched rfl

theorem Runs.settled {ops : List MicroOp} {s : State} (h : Runs (.settle :: ops) s) : Runs ops (settled s) := by
  obtain ⟨hs, hw, hst, hsc, i, hd, hops⟩ := h
  exact ⟨nofun, fun h => h.2 rfl, hst, hsc, i, hd, drop_upc_succ hops⟩

/-! ### What a command does as a whole -/

theorem KeepsPorts.trans {s u t : State} (h : KeepsPorts s u) (h' : KeepsPorts u t) : KeepsPorts s t :=
  ⟨h'.cfg.trans h.cfg, h'.addr.trans h.addr, h'.addrSel.trans h.addrSel, h'.cmds.trans h.cmds,
    h'.sched.trans h.sched, h'.stalled.trans h.stalled, h'.busCut.trans h.busCut⟩

/-- A state shows its own trace once nothing more has gone out. -/
theorem shows_nil (s : State) : s.Shows [] s.bus := ⟨fun _ => (List.append_nil _).symm, [], (List.append_nil _).symm⟩

/-- `t` is reached from `s` by the accesses `as`, with no response given. -/
structure Performs (s : State) (as : List Access) (t : State) : Prop where
  bus : s.Shows (as.flatMap (Access.events s.addr)) t.bus
  rsps : t.rsps = s.rsps
  ports : KeepsPorts s t

theorem Performs.trans {s u t : State} {as bs : List Access} (h : Performs s as u) (h' : Performs u bs t) :
    Performs s (as ++ bs) t := by
  obtain ⟨hbus, hrsps, hports⟩ := h
  obtain ⟨hbus', hrsps', hports'⟩ := h'
  rw [hports.addr] at hbus'
  refine ⟨?_, hrsps'.trans hrsps, hports.trans hports'⟩
  rw [List.flatMap_append]
  exact hbus.trans hports.busCut hbus'

theorem performs_issue (s : State) (S : Session) : Performs s [] (issue { s with sess := S }) :=
  ⟨shows_nil s, rfl, rfl, rfl, rfl, rfl, rfl, rfl, rfl⟩

theorem performs_withSess (s : State) (S : Session) : Performs s [] { s with sess := S } :=
  ⟨shows_nil s, rfl, rfl, rfl, rfl, rfl, rfl, rfl, rfl⟩

theorem performs_writeConfig (s : State) :
    Performs s [.write 1 (Codec.encode s.sess)] (MicroOp.writeConfig.run s) :=
  ⟨shows_shown s _, rfl, MicroOp.run_keepsPorts _ s⟩

theorem performs_contWriteConfig (s : State) :
    Performs s [.write 1 (Codec.encode { s.sess with mode := s.cfg.modeCont })] (MicroOp.contWriteConfig.run s) :=
  ⟨shows_shown (setCont s) _, rfl, MicroOp.run_keepsPorts _ s⟩

theorem performs_writeReg (p : Byte) (v : Word) (s : State) :
    Performs s [.write p v] ((MicroOp.writeReg p v).run s) :=
  ⟨shows_shown s _, rfl, MicroOp.run_keepsPorts _ s⟩

theorem performs_settled (s : State) : Performs s [] (settled s) :=
  ⟨shows_nil s, rfl, rfl, rfl, rfl, rfl, rfl, rfl, rfl⟩

/-- `hi`, `lo` are the bytes that the next two reads return, as far as they are fixed (20_memory.md R49). -/
def ReadsNext (s : State) (hi lo : Byte) : Prop :=
  (∀ b, s.rx[0]? = some b → hi = b) ∧ (∀ b, s.rx[1]? = some b → lo = b)

/-- A conversion read writes RES and no other register of the results. -/
theorem performs_readConv (s : State) :
    ∃ hi lo : Byte, Performs s [.readConv hi lo] (MicroOp.readConv.run s) ∧
      ReadsNext s hi lo ∧
      (MicroOp.readConv.run s).res = hi ++ lo := by
  obtain ⟨hi, lo, ht, hbus, hb⟩ := readConv_reads s
  exact ⟨hi, lo, ⟨hbus, readConv_rsps s, MicroOp.run_keepsPorts _ s⟩, hb, by rw [ht]⟩

@[simp] theorem readConv_resg (s : State) : (readConv s).resg = s.resg := by rw [readConv_frame]

/-- A write of the configuration register. -/
def Access.isConfigWrite : Access → Bool
  | .write p _ => p == 1
  | .readConv _ _ => false

/-- A read of the conversion register. -/
def Access.isRead : Access → Bool
  | .write _ _ => false
  | .readConv _ _ => true

/-- In `t` a command accepted in `s` has answered, having left the session `S` and performed the accesses `as`, its
read answered `hi`, `lo`; `v` is the value answered, by RES and RESG. -/
structure Completed (s : State) (S : Session) (as : List Access) (hi lo : Byte) (range : Bool)
    (v : Word → BitVec 3 → BitVec 32) (t : State) : Prop where
  bytes : ReadsNext s hi lo
  seq : t.seq = .idle
  sess : t.sess = S
  bus : s.Shows (as.flatMap (Access.events s.addr)) t.bus
  rsps : t.rsps = s.rsps ++ [rspWord (.ofRange range) (v t.res t.resg)]
  res : t.res = if as.any Access.isRead then hi ++ lo else s.res
  resg : t.resg = if as.any Access.isConfigWrite then S.gain else s.resg
  lastw : t.lastw = if as.any Access.isConfigWrite then Codec.encode S else s.lastw
  lastwValid : t.lastwValid = (as.any Access.isConfigWrite || s.lastwValid)
  ports : KeepsPorts s t

theorem exists_rx_bytes (s : State) :
    ∃ hi lo, ReadsNext s hi lo :=
  ⟨(s.rx[0]?).getD 0, (s.rx[1]?).getD 0, fun b h => by rw [h]; rfl, fun b h => by rw [h]; rfl⟩

/-- A command's answer completes it. -/
theorem Performs.completed {s u : State} {S : Session} {as : List Access} {hi lo : Byte} (h : Performs s as u)
    (range : Bool) (v : Word → BitVec 3 → BitVec 32)
    (hb : ReadsNext s hi lo) (hsess : u.sess = S)
    (hres : u.res = if as.any Access.isRead then hi ++ lo else s.res)
    (hresg : u.resg = if as.any Access.isConfigWrite then S.gain else s.resg)
    (hlastw : u.lastw = if as.any Access.isConfigWrite then Codec.encode S else s.lastw)
    (hvalid : u.lastwValid = (as.any Access.isConfigWrite || s.lastwValid)) :
    Completed s S as hi lo range v (respond (.ofRange range) (v u.res u.resg) u) := by
  obtain ⟨hbus, hrsps, hports⟩ := h
  exact ⟨hb, rfl, hsess, hbus, by rw [respond_rsps, hrsps]; rfl, hres, hresg, hlastw, hvalid,
    hports.trans (MicroOp.run_keepsPorts (.respond (.ofRange range) (v u.res u.resg)) u)⟩

/-- A command answered as it is accepted. -/
theorem completed_respond (s : State) (S : Session) (range : Bool) (v : BitVec 32) :
    ∃ hi lo, Completed s S [] hi lo range (fun _ _ => v) (respond (.ofRange range) v { s with sess := S }) := by
  obtain ⟨hi, lo, hb⟩ := exists_rx_bytes s
  exact ⟨hi, lo, (performs_withSess s S).completed range (fun _ _ => v) hb rfl rfl rfl rfl rfl⟩

/-- One configuration write and an answer. -/
theorem completed_write {s : State} {S : Session} {range : Bool}
    (h : Runs (setterProgram (.ofRange range)) (issue { s with sess := S })) :
    ∃ hi lo t, Host.Core.run Sys2Proof.core 2 (issue { s with sess := S }) = .next t ∧
      Completed s S [.write 1 (Codec.encode S)] hi lo range (fun _ _ => 0) t := by
  obtain ⟨hi, lo, hb⟩ := exists_rx_bytes s
  have hp := (performs_issue s S).trans (performs_writeConfig _)
  exact ⟨hi, lo, _, (h.run_cons 1).trans ((h.tail rfl).run_cons 0),
    hp.completed range (fun _ _ => 0) hb rfl rfl rfl rfl rfl⟩

/-- A comparator start: two thresholds, then the configuration in continuous mode. -/
theorem completed_comparator {s : State} {S : Session} {low high : Word}
    (h : Runs (comparatorProgram low high) (issue { s with sess := S })) :
    ∃ hi lo t, Host.Core.run Sys2Proof.core 4 (issue { s with sess := S }) = .next t ∧
      Completed s { S with mode := s.cfg.modeCont }
        [.write 2 low, .write 3 high, .write 1 (Codec.encode { S with mode := s.cfg.modeCont })]
        hi lo false (fun _ _ => 0) t := by
  obtain ⟨hi, lo, hb⟩ := exists_rx_bytes s
  have h1 := h.tail rfl
  have h2 := h1.tail rfl
  have hp := (((performs_issue s S).trans (performs_writeReg ptrLo low _)).trans
    (performs_writeReg ptrHi high _)).trans (performs_contWriteConfig _)
  refine ⟨hi, lo, _,
    (h.run_cons 3).trans ((h1.run_cons 2).trans ((h2.run_cons 1).trans ((h2.tail rfl).run_cons 0))),
    hp.completed false (fun _ _ => 0) hb rfl ?res ?resg ?lastw ?valid⟩
  all_goals simp [Access.isRead, Access.isConfigWrite, MicroOp.run, memWrite]

/-- A conversion read and an answer. -/
theorem completed_read {s : State} {op : MicroOp} {v : Word → BitVec 3 → BitVec 32}
    (hop : ∀ u, op.run u = respond .ok (v u.res u.resg) u) (h : Runs [.readConv, op] (issue s)) :
    ∃ hi lo t, Host.Core.run Sys2Proof.core 2 (issue s) = .next t ∧
      Completed s s.sess [.readConv hi lo] hi lo false v t := by
  obtain ⟨hi, lo, hp, hb, hres⟩ := performs_readConv (issue s)
  have hp' := (performs_issue s s.sess).trans hp
  refine ⟨hi, lo, _, (h.run_cons 1).trans ((h.tail rfl).run_cons 0), ?_⟩
  rw [hop]
  refine hp'.completed false v hb ?sess ?res ?resg ?lastw ?valid
  case res => simp [hres, Access.isRead]
  all_goals simp [Access.isConfigWrite, MicroOp.run]

/-- An acquisition. -/
theorem completed_acquire {s : State} {S : Session}
    (h : Runs acquireProgram (issue { s with sess := S })) :
    ∃ hi lo t, Host.Core.run Sys2Proof.core (4 + (Codec.delayFor (S.rate.setWidth 8)).toNat)
        (issue { s with sess := S }) = .next t ∧
      Completed s S [.write 1 (Codec.encode S), .readConv hi lo] hi lo false (fun r g => resultWord g r) t := by
  have h1 := h.tail rfl
  have h2 := h1.settled
  obtain ⟨hi, lo, hp, hb, hres⟩ := performs_readConv (settled (MicroOp.writeConfig.run (issue { s with sess := S })))
  have hp' := (((performs_issue s S).trans (performs_writeConfig _)).trans (performs_settled _)).trans hp
  refine ⟨hi, lo, _, ?run, hp'.completed false (fun r g => resultWord g r) hb ?sess ?res ?resg ?lastw ?valid⟩
  case run =>
    have hsteps (d : Nat) : 4 + d = 2 + d + 1 + 1 := by omega
    rw [hsteps]
    exact (h.run_cons _).trans ((h1.run_settle 2).trans ((h2.run_cons 1).trans ((h2.tail rfl).run_cons 0)))
  case res => simp [hres, Access.isRead]
  all_goals simp [Access.isConfigWrite, MicroOp.run, settled]

/-! ### Operands in range and out of it -/

theorem wellFormed_eq_inRange {i : Instr} {t : Byte} {m : Nat} (ht : i.operandT = some t) (hm : i.maxT = some m) :
    i.wellFormed = !outOfRange t m := by
  rw [Bool.eq_iff_iff]
  simp [Instr.wellFormed, ht, hm, outOfRange]

theorem rangeOf_eq {i : Instr} {t : Byte} {m : Nat} (ht : i.operandT = some t) (hm : i.maxT = some m) :
    rangeOf i = outOfRange t m := by
  rw [rangeOf, wellFormed_eq_inRange ht hm, Bool.not_not]

theorem refused_eq_rangeOf {i : Instr} (hf : fallsBack i = false) : refused i = rangeOf i := by
  simp [refused, rangeOf, hf]

/-- A table with entries 0 to `m` has one exactly where the operand is in range. -/
theorem lookup_inRange {α : Type} {m : Nat} (v : Vector α (m + 1)) {t : Byte} (h : outOfRange t m = false) :
    ∃ a, v[t.toNat]? = some a := by
  have hlt : t.toNat < m + 1 := by simpa [outOfRange, Nat.lt_succ_iff] using h
  exact ⟨v[t.toNat], Vector.getElem?_eq_getElem hlt⟩

theorem lookup_outOfRange {α : Type} {m : Nat} (v : Vector α (m + 1)) {t : Byte} (h : outOfRange t m = true) :
    v[t.toNat]? = none := by
  have hge : m < t.toNat := by simpa [outOfRange] using h
  exact Vector.getElem?_eq_none hge

/-! ### The accepts, in the terms of the tables -/

theorem not_fallsBack_of_refused {i : Instr} (h : refused i = true) : fallsBack i = false := by
  simp only [refused, Bool.and_eq_true, Bool.not_eq_true'] at h
  exact h.2

theorem acceptOf_refused {i : Instr} (h : refused i = true) (s : State) : acceptOf i s = refuse s := by
  have hf := not_fallsBack_of_refused h
  rw [refused_eq_rangeOf hf] at h
  cases i with
  | enc | acq | cont | getlast | clrlatch => cases h
  | dly | scl | mv | setch => cases hf
  | fld t a =>
    rw [rangeOf_eq rfl rfl] at h
    simp [acceptOf, Codec.field, lookup_outOfRange fieldTable h]
  | setdf t | rddf t =>
    rw [rangeOf_eq rfl rfl] at h
    simp [acceptOf, Codec.diffmux, lookup_outOfRange s.cfg.muxDiff h]
  | cmpdf t | cmpdfl t =>
    rw [rangeOf_eq rfl rfl] at h
    simp [acceptOf, acceptComparator, Codec.diffmux, lookup_outOfRange s.cfg.muxDiff h]
  | setgain | setrate | setcmode | setcpol | setclat | setcque =>
    rw [rangeOf_eq rfl rfl] at h
    simp [acceptOf, h]
  | rdch t =>
    rw [rangeOf_eq rfl rfl] at h
    simp [acceptOf, channelMux, lookup_outOfRange s.cfg.muxCh h]
  | cmpch t | cmpchl t =>
    rw [rangeOf_eq rfl rfl] at h
    simp [acceptOf, acceptComparator, channelMux, lookup_outOfRange s.cfg.muxCh h]

/-- The five codec commands (40_codec.md R89 to R93). -/
def isCodec : Instr → Bool
  | .enc | .fld _ _ | .dly _ | .scl _ | .mv _ _ => true
  | _ => false

/-- An acquisition (42_single_shot.md R116 to R118). -/
def IsAcquisition (i : Instr) : Prop := i = .acq ∨ ∃ c, i = .rdch c ∨ i = .rddf c

/-- A comparator start (44_comparator.md R136). -/
def IsComparator (i : Instr) : Prop :=
  ∃ t a b, i = .cmpch t a ∨ i = .cmpchl t a b ∨ i = .cmpdf t a ∨ i = .cmpdfl t a b

theorem rangeOf_acquisition {i : Instr} (hk : IsAcquisition i) (h : refused i = false) : rangeOf i = false := by
  rw [← refused_eq_rangeOf (by obtain rfl | ⟨c, rfl | rfl⟩ := hk <;> rfl), h]

theorem rangeOf_comparator {i : Instr} (hk : IsComparator i) (h : refused i = false) : rangeOf i = false := by
  rw [← refused_eq_rangeOf (by obtain ⟨t, a, b, rfl | rfl | rfl | rfl⟩ := hk <;> rfl), h]

/-- A codec command answers at once; neither RES nor RESG is in its value. -/
theorem acceptOf_codec {i : Instr} (hk : isCodec i = true) (h : refused i = false) (s : State) (r : Word)
    (g : BitVec 3) : acceptOf i s = respond (.ofRange (rangeOf i)) (valueOf s.cfg i s.sess r g) s := by
  cases i with
  | enc => rfl
  | fld t a =>
    have hrange := (refused_eq_rangeOf rfl).symm.trans h
    obtain ⟨⟨lo, width⟩, hx⟩ := lookup_inRange fieldTable ((rangeOf_eq rfl rfl).symm.trans hrange)
    rw [hrange, valueOf, if_neg (by simp [h])]
    simp only [acceptOf, Codec.field, hx, Option.getD_some]
    rfl
  | dly t | scl t | mv t a =>
    rw [rangeOf_eq rfl rfl, valueOf, if_neg (by simp [h])]
    rfl
  | _ => cases hk

/-- A setter is accepted with the session the tables give. -/
theorem acceptOf_setter {i : Instr} (hk : isSetter i = true) (h : refused i = false) (s : State) :
    acceptOf i s = acceptSetter (.ofRange (rangeOf i)) (sessionAfter s.cfg i) s ∧
      program i = setterProgram (.ofRange (rangeOf i)) := by
  cases i with
  | setch t =>
    rw [rangeOf_eq rfl rfl]
    refine ⟨?_, rfl⟩
    simp only [acceptOf]
    refine congrArg (acceptSetter (.ofRange (outOfRange t 3)) · s) (funext fun S => ?_)
    simp [sessionAfter, h]
  | setdf t =>
    have hrange := (refused_eq_rangeOf rfl).symm.trans h
    obtain ⟨m, hm⟩ := lookup_inRange s.cfg.muxDiff ((rangeOf_eq rfl rfl).symm.trans hrange)
    rw [hrange]
    refine ⟨?_, rfl⟩
    simp only [acceptOf, Codec.diffmux, hm]
    refine congrArg (acceptSetter .ok · s) (funext fun S => ?_)
    simp [sessionAfter, h, hm]
  | setgain t | setrate t | setcmode t | setcpol t | setclat t | setcque t =>
    have hrange := (refused_eq_rangeOf rfl).symm.trans h
    rw [hrange]
    rw [rangeOf_eq rfl rfl] at hrange
    refine ⟨?_, rfl⟩
    simp only [acceptOf, hrange, Bool.false_eq_true, if_false]
    refine congrArg (acceptSetter .ok · s) (funext fun S => ?_)
    simp [sessionAfter, h, t1, t2, t3, BitVec.setWidth_eq_extractLsb']
  | _ => cases hk

theorem acceptOf_acquisition {i : Instr} (hk : IsAcquisition i) (h : refused i = false) (s : State) :
    acceptOf i s = issue { s with sess := sessionAfter s.cfg i s.sess } := by
  have hrange := h
  obtain rfl | ⟨c, rfl | rfl⟩ := hk
  · rfl
  · rw [refused_eq_rangeOf rfl, rangeOf_eq rfl rfl] at hrange
    obtain ⟨m, hm⟩ := lookup_inRange s.cfg.muxCh hrange
    simp [acceptOf, channelMux, acceptAcquire, sessionAfter, h, hm, osStart]
  · rw [refused_eq_rangeOf rfl, rangeOf_eq rfl rfl] at hrange
    obtain ⟨m, hm⟩ := lookup_inRange s.cfg.muxDiff hrange
    simp [acceptOf, Codec.diffmux, acceptAcquire, sessionAfter, h, hm, osStart]

/-- A comparator start is accepted with the session the tables give but for MODE, which a micro-step sets. -/
theorem acceptOf_comparator {i : Instr} (hk : IsComparator i) (h : refused i = false) (s : State) :
    ∃ S, acceptOf i s = issue { s with sess := S } ∧
      sessionAfter s.cfg i s.sess = { S with mode := s.cfg.modeCont } := by
  have hrange := h
  obtain ⟨t, a, b, rfl | rfl | rfl | rfl⟩ := hk <;> rw [refused_eq_rangeOf rfl, rangeOf_eq rfl rfl] at hrange
  case inl | inr.inl =>
    obtain ⟨m, hm⟩ := lookup_inRange s.cfg.muxCh hrange
    refine ⟨{ s.sess with mux := m }, ?_, by simp [sessionAfter, h, hm]⟩
    simp [acceptOf, acceptComparator, channelMux, hm]
  case inr.inr.inl | inr.inr.inr =>
    obtain ⟨m, hm⟩ := lookup_inRange s.cfg.muxDiff hrange
    refine ⟨{ s.sess with mux := m }, ?_, by simp [sessionAfter, h, hm]⟩
    simp [acceptOf, acceptComparator, Codec.diffmux, hm]

/-! ### The tables, by the kind of command -/

/-- What the tables say of command `i`: the number of steps, the session left, the accesses by the bytes read, and the
value by RES and RESG. -/
structure Tables (c : Config) (i : Instr) (S : Session) (n : Nat) (S' : Session) (as : Byte → Byte → List Access)
    (v : Word → BitVec 3 → BitVec 32) : Prop where
  steps : stepsOf c i S = n
  session : sessionAfter c i S = S'
  accesses : ∀ hi lo, accesses c i S hi lo = as hi lo
  value : ∀ r g, valueOf c i S r g = v r g

theorem tables_refused {i : Instr} (h : refused i = true) (c : Config) (S : Session) :
    Tables c i S 1 S (fun _ _ => []) (fun _ _ => 0) :=
  ⟨if_pos h, if_pos h, fun _ _ => if_pos h, fun _ _ => if_pos h⟩

theorem tables_codec {i : Instr} (hk : isCodec i = true) (h : refused i = false) (c : Config) (S : Session) :
    Tables c i S 1 S (fun _ _ => []) (fun _ _ => valueOf c i S 0 0) := by
  cases i with
  | enc | fld | dly | scl | mv =>
    exact ⟨by simp [stepsOf, h], by simp [sessionAfter, h], by simp [accesses, h], fun _ _ => rfl⟩
  | _ => cases hk

/-- A setter leaves MODE, and the mode says whether it writes. -/
theorem tables_setter {i : Instr} (hk : isSetter i = true) (h : refused i = false) (c : Config) (S : Session) :
    (sessionAfter c i S).mode = S.mode ∧
    Tables c i S (if S.mode = c.modeSingle then 1 else 3) (sessionAfter c i S)
      (fun _ _ => if S.mode = c.modeSingle then [] else [.write 1 (Codec.encode (sessionAfter c i S))])
      (fun _ _ => 0) := by
  cases i with
  | setch | setdf | setgain | setrate | setcmode | setcpol | setclat | setcque =>
    exact ⟨by simp [sessionAfter, h], by simp [stepsOf, h], rfl, by simp [accesses, h], by simp [valueOf, h]⟩
  | _ => cases hk

theorem tables_acquisition {i : Instr} (hk : IsAcquisition i) (h : refused i = false) (c : Config) (S : Session) :
    (sessionAfter c i S).rate = S.rate ∧
    Tables c i S (4 + (Codec.delayFor (S.rate.setWidth 8)).toNat + 1) (sessionAfter c i S)
      (fun hi lo => [.write 1 (Codec.encode (sessionAfter c i S)), .readConv hi lo])
      (fun r g => resultWord g r) := by
  obtain rfl | ⟨t, rfl | rfl⟩ := hk <;>
    exact ⟨by simp [sessionAfter, h], by simp [stepsOf, h, Nat.add_right_comm], rfl, by simp [accesses, h],
      by simp [valueOf, h]⟩

theorem tables_comparator {i : Instr} (hk : IsComparator i) (h : refused i = false) (c : Config) (S : Session) :
    ∃ low high, program i = comparatorProgram low high ∧
      Tables c i S 5 (sessionAfter c i S)
        (fun _ _ => [.write 2 low, .write 3 high, .write 1 (Codec.encode (sessionAfter c i S))]) (fun _ _ => 0) := by
  obtain ⟨t, a, b, rfl | rfl | rfl | rfl⟩ := hk <;>
    exact ⟨_, _, rfl, by simp [stepsOf, h], rfl, by simp [accesses, h], by simp [valueOf, h]⟩

/-- A command that is refused reads nothing. -/
theorem readsConversion_of_refused {i : Instr} (h : refused i = true) : readsConversion i = false := by
  cases i with
  | acq | getlast | clrlatch => cases h
  | rdch | rddf => simp [readsConversion, h]
  | _ => rfl

theorem accesses_of_refused {i : Instr} (h : refused i = true) (c : Config) (S : Session) (hi lo : Byte) :
    accesses c i S hi lo = [] := if_pos h

theorem readsConversion_eq (c : Config) (i : Instr) (S : Session) (hi lo : Byte) :
    readsConversion i = (accesses c i S hi lo).any Access.isRead := by
  cases h : refused i with
  | true => rw [accesses_of_refused h, readsConversion_of_refused h, List.any_nil]
  | false =>
    simp only [accesses, h, Bool.false_eq_true, if_false]
    cases i with
    | setch | setdf | setgain | setrate | setcmode | setcpol | setclat | setcque => dsimp only; split <;> rfl
    | rdch | rddf => simp [readsConversion, h, Access.isRead]
    | _ => rfl

theorem hasConfigWrite_eq (c : Config) (i : Instr) (S : Session) (hi lo : Byte) :
    hasConfigWrite c i S = (accesses c i S hi lo).any Access.isConfigWrite := by
  simp only [hasConfigWrite, accesses]
  cases refused i with
  | true => rfl
  | false => cases i <;> rfl

/-! ### Whole commands -/

/-- The run of command `i` from its accept in `s` on is the one the tables describe. -/
def Completes (i : Instr) (s : State) : Prop :=
  ∃ hi lo k t, stepsOf s.cfg i s.sess = k + 1 ∧ Host.Core.run Sys2Proof.core k (acceptOf i s) = .next t ∧
    Completed s (sessionAfter s.cfg i s.sess) (accesses s.cfg i s.sess hi lo) hi lo (rangeOf i)
      (valueOf s.cfg i s.sess) t

/-- A run that ends as a row of the tables says completes its command. -/
theorem Tables.completes {i : Instr} {s t : State} {k : Nat} {S : Session} {as : Byte → Byte → List Access}
    {v : Word → BitVec 3 → BitVec 32} {hi lo : Byte} (h : Tables s.cfg i s.sess (k + 1) S as v)
    (hrun : Host.Core.run Sys2Proof.core k (acceptOf i s) = .next t)
    (hc : Completed s S (as hi lo) hi lo (rangeOf i) v t) : Completes i s := by
  obtain ⟨hsteps, hS, has, hv⟩ := h
  refine ⟨hi, lo, k, t, hsteps, hrun, ?_⟩
  rwa [hS, has, show valueOf s.cfg i s.sess = v from funext fun r => funext (hv r)]

theorem completes_refused {i : Instr} (h : refused i = true) (s : State) : Completes i s := by
  have hacc : acceptOf i s = respond (.ofRange (rangeOf i)) 0 s := by
    rw [← refused_eq_rangeOf (not_fallsBack_of_refused h), h]
    exact acceptOf_refused h s
  obtain ⟨hi, lo, hc⟩ := completed_respond s s.sess (rangeOf i) 0
  exact (tables_refused h s.cfg s.sess).completes (k := 0) (congrArg Host.Outcome.next hacc) hc

theorem completes_codec {i : Instr} (hk : isCodec i = true) (h : refused i = false) (s : State) : Completes i s := by
  obtain ⟨hi, lo, hc⟩ := completed_respond s s.sess (rangeOf i) (valueOf s.cfg i s.sess 0 0)
  exact (tables_codec hk h s.cfg s.sess).completes (k := 0)
    (congrArg Host.Outcome.next (acceptOf_codec hk h s 0 0)) hc

section
variable {s : State} {i : Instr} (hst : s.stalled = false) (hsc : s.sched = []) (hd : decode s.cur = .instr i)
include hst hsc hd

theorem completes_setter (hk : isSetter i = true) (h : refused i = false) : Completes i s := by
  obtain ⟨hacc, hprog⟩ := acceptOf_setter hk h s
  obtain ⟨hmode, htab⟩ := tables_setter hk h s.cfg s.sess
  by_cases hm : s.sess.mode = s.cfg.modeSingle
  · obtain ⟨hi, lo, hc⟩ := completed_respond s (sessionAfter s.cfg i s.sess) (rangeOf i) 0
    rw [acceptSetter, if_pos (hmode.trans hm)] at hacc
    simp only [if_pos hm] at htab
    exact htab.completes (k := 0) (congrArg Host.Outcome.next hacc) hc
  · have hrun := runs_issue (s := { s with sess := sessionAfter s.cfg i s.sess }) hst hsc hd
    rw [hprog] at hrun
    obtain ⟨hi, lo, t, hrun, hc⟩ := completed_write hrun
    rw [acceptSetter, if_neg (by rwa [hmode])] at hacc
    simp only [if_neg hm] at htab
    exact htab.completes (k := 2) (by rw [hacc]; exact hrun) hc

theorem completes_acquisition (hk : IsAcquisition i) (h : refused i = false) : Completes i s := by
  obtain ⟨hrate, htab⟩ := tables_acquisition hk h s.cfg s.sess
  have hprog : program i = acquireProgram := by obtain rfl | ⟨c, rfl | rfl⟩ := hk <;> rfl
  have hrun := runs_issue (s := { s with sess := sessionAfter s.cfg i s.sess }) hst hsc hd
  rw [hprog] at hrun
  obtain ⟨hi, lo, t, hrun, hc⟩ := completed_acquire hrun
  rw [hrate, ← acceptOf_acquisition hk h s] at hrun
  rw [← rangeOf_acquisition hk h] at hc
  exact htab.completes hrun hc

theorem completes_comparator (hk : IsComparator i) (h : refused i = false) : Completes i s := by
  obtain ⟨S, hacc, hS⟩ := acceptOf_comparator hk h s
  obtain ⟨low, high, hprog, htab⟩ := tables_comparator hk h s.cfg s.sess
  have hrun := runs_issue (s := { s with sess := S }) hst hsc hd
  rw [hprog] at hrun
  obtain ⟨hi, lo, t, hrun, hc⟩ := completed_comparator hrun
  rw [← hacc] at hrun
  rw [← hS, ← rangeOf_comparator hk h] at hc
  exact htab.completes hrun hc

theorem completes : Completes i s := by
  cases h : refused i with
  | true => exact completes_refused h s
  | false =>
    cases i with
    | enc | fld | dly | scl | mv => exact completes_codec rfl h s
    | setch | setdf | setgain | setrate | setcmode | setcpol | setclat | setcque =>
      exact completes_setter hst hsc hd rfl h
    | acq => exact completes_acquisition hst hsc hd (.inl rfl) h
    | rdch c => exact completes_acquisition hst hsc hd (.inr ⟨c, .inl rfl⟩) h
    | rddf c => exact completes_acquisition hst hsc hd (.inr ⟨c, .inr rfl⟩) h
    | cont =>
      obtain ⟨hi, lo, t, hrun, hc⟩ := completed_write (range := false) (runs_issue (i := .cont)
        (s := { s with sess := { s.sess with mode := s.cfg.modeCont, cque := s.cfg.queDisabled } }) hst hsc hd)
      exact ⟨hi, lo, 2, t, rfl, hrun, hc⟩
    | getlast =>
      obtain ⟨hi, lo, t, hrun, hc⟩ :=
        completed_read (v := fun r g => resultWord g r) (fun _ => rfl) (runs_issue hst hsc hd)
      exact ⟨hi, lo, 2, t, rfl, hrun, hc⟩
    | clrlatch =>
      obtain ⟨hi, lo, t, hrun, hc⟩ := completed_read (v := fun _ _ => 0) (fun _ => rfl) (runs_issue hst hsc hd)
      exact ⟨hi, lo, 2, t, rfl, hrun, hc⟩
    | cmpch t a => exact completes_comparator hst hsc hd ⟨t, a, 0, .inl rfl⟩ h
    | cmpchl t a b => exact completes_comparator hst hsc hd ⟨t, a, b, .inr (.inl rfl)⟩ h
    | cmpdf t a => exact completes_comparator hst hsc hd ⟨t, a, 0, .inr (.inr (.inl rfl))⟩ h
    | cmpdfl t a b => exact completes_comparator hst hsc hd ⟨t, a, b, .inr (.inr (.inr rfl))⟩ h

end

end Sys2Proof.Machine

/-! ### The statements of 20_memory.md -/

namespace Sys2Proof.Proofs

open Sys2Proof Sys2Proof.Machine

/-- Settles O44: a command's transaction goes out whole, or a stall leaves its first primitives. -/
theorem stepPerformsAtMostOneWholeTransaction : Obligations.StepPerformsAtMostOneWholeTransaction := by
  intro s t hr hc h
  obtain hbus | ⟨i, op, tr, u, hop, htr, hmove⟩ := (step_inv h).transaction (not_resetNext_iff.1 hr)
  · exact .inl hbus
  obtain ⟨haddr, hbus, hcut⟩ := MicroOp.transaction_addr htr
  refine .inr ⟨tr.events u, ?whole, ?bus⟩
  case whole =>
    obtain ⟨p, v, rfl, hp⟩ | rfl := MicroOp.transaction_pointer hop htr
    · exact .inl ⟨p, v, hp, by rw [Transaction.events, haddr]; rfl⟩
    · exact .inr ⟨u.rxByte, u.rxDone.rxByte, by rw [Transaction.events, haddr]; rfl⟩
  case bus =>
    obtain ⟨hm, rfl⟩ | ⟨k, hm, rfl⟩ := hmove
    · exact .inl ⟨(MicroOp.run_of_transaction htr hc).1, by simp [hm]⟩
    · refine .inr ⟨k, tr.stallAt k, hm, tr.stallAt_pos k, ?_, rfl⟩
      exact (tr.begin_stallAt_bus k (hcut.trans hc)).trans (by rw [hbus])

/-- Settles O59: a stall begins the transaction that the next step would perform, none is pending from then on, and a
reset clears the mark. -/
theorem stalledPrimitiveHoldsArcsUntilReset : Obligations.StalledPrimitiveHoldsArcsUntilReset := by
  refine ⟨?begins, ?holds, ?ends⟩
  case begins =>
    intro s u k hs hst hc h
    obtain ⟨hbus, hsess, hp⟩ | ⟨tr, v, hbus, hsess, hp⟩ := sequencerStep_transaction hs hst hc h
    · refine ⟨[], _, s, by rw [hbus, List.append_nil], by simp [applyMove, stall, hp], ?_, rfl⟩
      simp only [hsess, ← hst, List.take_nil, List.append_nil, List.isEmpty_nil, Bool.not_true]
    · obtain ⟨r, j, he⟩ := stall_of_pending k hp hc
      refine ⟨tr.events v, tr.stallAt k, _, hbus, congrArg Host.Outcome.next he, ?_, tr.stallAt_eq k v⟩
      simp [tr.events_ne_nil, hsess]
  case holds =>
    intro n s hst hs ht hm
    obtain ⟨c, a, hrun⟩ := run_of_stalled n s hst hs ht hm
    exact ⟨_, hrun, decide_eq_false hs, rfl⟩
  case ends =>
    intro s n r hst hsc
    refine ⟨applyReset { s with sched := r, busCut := true }, ?_, rfl, rfl, rfl, rfl, rfl⟩
    simp [step_of_sched_cons hsc, applyMove, cutPending, hst]

/-- Settles O57: both states make the same move, and each operation keeps the relation. -/
theorem readBytesReachOnlyResultsAndResponses : Obligations.ReadBytesReachOnlyResultsAndResponses := by
  intro s s' t h hr ht
  have halike := (step_inv ht).answersAlike h.popped (not_resetNext_iff.1 hr)
  rwa [← h.nextMove] at halike

/-- Settles O55: the accept is the first step, and each family of commands runs its program as the tables say. -/
theorem everyCommandRunsToItsResponse : Obligations.EveryCommandRunsToItsResponse := by
  intro s w rest i hs hst hsc hc hd
  obtain ⟨hi, lo, k, t, hsteps, hrun, hdone⟩ := completes (s := latch w rest s) hst hsc hd
  obtain ⟨⟨hhi, hlo⟩, hseq, hsess, hbus, hrsps, hres, hresg, hlastw, hvalid, hports⟩ := hdone
  obtain ⟨hcfg, haddr, hsel, hcmds, hsched, hstalled, hcut⟩ := hports
  have hstep : step s = .next (acceptOf i (latch w rest s)) := by
    rw [step_of_sched_nil hsc, nextMove_nil hsc (by simp [State.waiting, hs])]
    exact (sequencerStep_accept hs hc hd).trans (exec_idle i hs)
  rw [← hasConfigWrite_eq] at hresg hlastw hvalid
  rw [← readsConversion_eq] at hres
  exact ⟨hi, lo, t, (congrArg (Host.Core.run Sys2Proof.core · s) hsteps).trans ((run_succ hstep).trans hrun), hhi, hlo,
    hseq, hsess, hbus, hrsps, hres, hresg, hlastw, hvalid, hcmds, haddr, hcfg, hsel, hsched.trans hsc,
    hstalled.trans hst, hcut⟩

end Sys2Proof.Proofs

/-! SUPPORT. The encoding (30_encoding.md): a command word as its four fields, the opcode map row by row, the layout of
the response word, and which steps respond. -/

namespace Sys2Proof

/-! ### A command word as its four fields -/

theorem packFields_eq_append (op t : Byte) (a b : Word) : packFields op t a b = op ++ t ++ a ++ b := by
  rw [packFields, ← BitVec.setWidth_eq (op ++ t ++ a ++ b),
    BitVec.setWidth_append_append_append_eq_shiftLeft_setWidth_or]

/-- Every word is packed from its own fields. -/
theorem packFields_of_fields (w : Cmd) : packFields (opField w) (tField w) (aField w) (bField w) = w := by
  have htop : opField w ++ tField w = w.extractLsb' 32 16 := BitVec.extractLsb'_append_extractLsb'_eq_extractLsb' rfl
  have hmid : opField w ++ tField w ++ aField w = w.extractLsb' 16 32 := by
    rw [htop]
    exact BitVec.extractLsb'_append_extractLsb'_eq_extractLsb' rfl
  rw [packFields_eq_append, hmid]
  exact (BitVec.extractLsb'_append_extractLsb'_eq_extractLsb' rfl).trans BitVec.extractLsb'_eq_self

/-- A mask is applied field by field. -/
theorem and_eq_packFields (w m : Cmd) :
    w &&& m = packFields (opField w &&& opField m) (tField w &&& tField m) (aField w &&& aField m)
      (bField w &&& bField m) := by
  rw [← packFields_of_fields (w &&& m)]
  simp only [opField, tField, aField, bField, BitVec.extractLsb'_and]

/-! ### The opcode map -/

/-- The 23 values `OP` of the opcode map (30_encoding.md R64). -/
def listedOpcodes : List Byte :=
  [0x01, 0x02, 0x03, 0x04, 0x05, 0x10, 0x11, 0x12, 0x13, 0x14, 0x15, 0x16, 0x17, 0x20, 0x21, 0x22, 0x28, 0x29, 0x30,
    0x31, 0x32, 0x33, 0x38]

/-- A listed opcode selects an instruction of that opcode, whatever the other fields; an unlisted one is reserved
(30_encoding.md R63, R65). -/
theorem decodeFields_cases (op t : Byte) (a b : Word) :
    (op ∈ listedOpcodes ∧ ∃ i, decodeFields op t a b = .instr i ∧ i.opcode = op) ∨
    (op ∉ listedOpcodes ∧ decodeFields op t a b = .reserved op) := by
  unfold decodeFields
  split
  case h_24 => exact .inr ⟨by simp_all [listedOpcodes], rfl⟩
  all_goals exact .inl ⟨by decide, _, rfl, rfl⟩

theorem opcode_of_decodeFields {op t : Byte} {a b : Word} {i : Instr} (h : decodeFields op t a b = .instr i) :
    i.opcode = op := by
  obtain ⟨_, j, hj, hop⟩ | ⟨_, hr⟩ := decodeFields_cases op t a b
  · cases hj.symm.trans h
    exact hop
  · cases hr.symm.trans h

/-- The row of an instruction gives it back from its own operands. -/
theorem decodeFields_operands (i : Instr) :
    decodeFields i.opcode (i.operandT.getD 0) i.operandA i.operandB = .instr i := by
  cases i <;> rfl

/-- The row of an instruction takes its operands from the fields its format reads (30_encoding.md R61). -/
theorem operands_of_decodeFields {i : Instr} {t : Byte} {a b : Word} (h : decodeFields i.opcode t a b = .instr i) :
    i.operandT.getD 0 = t &&& tField i.readMask ∧ i.operandA = a &&& aField i.readMask ∧
      i.operandB = b &&& bField i.readMask := by
  cases i with
  | enc | acq | cont | getlast | clrlatch =>
    exact ⟨BitVec.and_zero.symm, BitVec.and_zero.symm, BitVec.and_zero.symm⟩
  | dly | scl | setch | setdf | setgain | setrate | setcmode | setcpol | setclat | setcque | rdch | rddf =>
    cases h
    dsimp only [Instr.readMask]
    exact ⟨BitVec.and_allOnes.symm, BitVec.and_zero.symm, BitVec.and_zero.symm⟩
  | fld | mv | cmpch | cmpdf =>
    cases h
    dsimp only [Instr.readMask]
    exact ⟨BitVec.and_allOnes.symm, BitVec.and_allOnes.symm, BitVec.and_zero.symm⟩
  | cmpchl | cmpdfl =>
    cases h
    dsimp only [Instr.readMask]
    exact ⟨BitVec.and_allOnes.symm, BitVec.and_allOnes.symm, BitVec.and_allOnes.symm⟩

/-- Every format reads the opcode. -/
theorem opField_readMask (i : Instr) : opField i.readMask = BitVec.allOnes 8 := by
  cases i <;> simp only [Instr.readMask] <;> rfl

theorem decode_encode (i : Instr) : decode (encode i) = .instr i := by
  obtain ⟨hop, ht, ha, hb⟩ := Laws.Encoding.packFields_fields i.opcode (i.operandT.getD 0) i.operandA i.operandB
  rw [decode, encode, hop, ht, ha, hb, decodeFields_operands]

theorem encode_of_decode {w : Cmd} {i : Instr} (h : decode w = .instr i) : encode i = w &&& i.readMask := by
  have hop := opcode_of_decodeFields h
  rw [decode, ← hop] at h
  obtain ⟨ht, ha, hb⟩ := operands_of_decodeFields h
  rw [encode, and_eq_packFields, opField_readMask, BitVec.and_allOnes, ← hop, ht, ha, hb]

/-! ### Assembler lines -/

theorem asmT_of_byte {n : Int} (h0 : 0 ≤ n) (h255 : n ≤ 255) : asmT n = some (BitVec.ofInt 8 n) := if_pos ⟨h0, h255⟩

/-! ### Valid operands -/

theorem wellFormed_iff {i : Instr} {t : Byte} {m : Nat} (ht : i.operandT = some t) (hm : i.maxT = some m) :
    i.WellFormed ↔ t.toNat ≤ m := by
  simp [Instr.WellFormed, Instr.wellFormed, ht, hm]

end Sys2Proof

namespace Sys2Proof.Machine

theorem fallsBack_inv {i : Instr} (h : fallsBack i = true) :
    ∃ t a, i = .dly t ∨ i = .scl t ∨ i = .mv t a ∨ i = .setch t := by
  cases i with
  | dly t | scl t | setch t => exact ⟨t, 0, by simp⟩
  | mv t a => exact ⟨t, a, by simp⟩
  | _ => cases h

/-! ### The response word -/

theorem rspWord_eq_append (st : Status) (v : BitVec 32) :
    rspWord st v = BitVec.ofBool st.badop ++ BitVec.ofBool st.range ++ v := by
  rw [rspWord, ← BitVec.setWidth_eq (BitVec.ofBool st.badop ++ BitVec.ofBool st.range ++ v),
    BitVec.setWidth_append_append_eq_shiftLeft_setWidth_or]

/-- What lies in the low 32 bits of a response is read from its value. -/
theorem rspWord_extract_value (st : Status) (v : BitVec 32) {start len : Nat} (h : start + len ≤ 32) :
    (rspWord st v).extractLsb' start len = v.extractLsb' start len := by
  rw [rspWord_eq_append]
  exact BitVec.extractLsb'_append_eq_of_add_le h

/-- The two bits above them are the status. -/
theorem rspWord_extract_status (st : Status) (v : BitVec 32) :
    (rspWord st v).extractLsb' 32 2 = BitVec.ofBool st.badop ++ BitVec.ofBool st.range := by
  rw [rspWord_eq_append]
  exact BitVec.extractLsb'_append_eq_left

theorem rspWord_badop (st : Status) (v : BitVec 32) :
    (rspWord st v).extractLsb' 33 1 = BitVec.ofBool st.badop := by
  rw [rspWord_eq_append, BitVec.extractLsb'_append_eq_of_le (by decide)]
  exact BitVec.extractLsb'_append_eq_left

theorem rspWord_range (st : Status) (v : BitVec 32) :
    (rspWord st v).extractLsb' 32 1 = BitVec.ofBool st.range := by
  rw [rspWord_eq_append, BitVec.extractLsb'_append_eq_of_le (by decide)]
  exact BitVec.extractLsb'_append_eq_right

theorem rspWord_value (st : Status) (v : BitVec 32) : (rspWord st v).extractLsb' 0 32 = v :=
  (rspWord_extract_value st v le_rfl).trans BitVec.extractLsb'_eq_self

/-- RESG stands above RES, and nothing above RESG (30_encoding.md R67). -/
theorem resultValue_eq_append (s : State) : resultValue s = 0#13 ++ (s.resg ++ s.res) := by
  rw [resultValue, ← BitVec.setWidth_append_eq_shiftLeft_setWidth_or, BitVec.setWidth_eq_append (by decide)]
  rfl

/-! ### Which steps respond -/

/-- From `s` to `t` at most one response is given, with BADOP and RANGE not both 1 (10_state.md R29). -/
def RespondsAtMostOnce (s t : State) : Prop :=
  t.rsps = s.rsps ∨ ∃ (st : Status) (v : BitVec 32),
    t.rsps = s.rsps ++ [rspWord st v] ∧ (st.badop && st.range) = false

theorem acceptOf_respondsAtMostOnce (i : Instr) (s : State) : RespondsAtMostOnce s (acceptOf i s) := by
  obtain ⟨S', ⟨st, v, hst, h⟩ | h⟩ := acceptOf_shape i s
  · exact .inr ⟨st, v, by rw [h, respond_rsps], hst⟩
  · exact .inl (by rw [h, issue_rsps])

theorem status_of_mem_program {i : Instr} {st : Status} {v : BitVec 32} (h : .respond st v ∈ program i) :
    (st.badop && st.range) = false := by
  simpa using program_mem h

theorem MicroOp.run_respondsAtMostOnce {i : Instr} {op : MicroOp} (h : op ∈ program i) (s : State) :
    RespondsAtMostOnce s (op.run s) := by
  cases op with
  | respond st v => exact .inr ⟨st, v, rfl, status_of_mem_program h⟩
  | respondResult => exact .inr ⟨.ok, resultValue s, rfl, rfl⟩
  | readConv => exact .inl (readConv_rsps s)
  | writeConfig | contWriteConfig | writeReg | settle => exact .inl rfl

theorem MoveMade.respondsAtMostOnce {m : Move} {s t : State} (h : MoveMade m s t) (hm : ∀ n, m ≠ .reset n) :
    RespondsAtMostOnce s t := by
  cases h with
  | sequencer t _ ht =>
    cases ht with
    | wait | stuck | settle => exact .inl rfl
    | accept w rest i => exact acceptOf_respondsAtMostOnce i (latch w rest s)
    | reserved => exact .inr ⟨.reserved, 0, rfl, rfl⟩
    | micro i op _ _ _ _ hop => exact MicroOp.run_respondsAtMostOnce (program_get_mem hop) s
  | tick => exact .inl (tick_rsps s)
  | reset n h => exact absurd h (hm n)
  | stall k => exact .inl (stall_rsps k s)
  | strap | host => exact .inl rfl

/-! ### The answer of a conversion -/

/-- In RESULT_READY with its last micro-step next, a command whose micro-sequence ends in `respondResult` answers. -/
theorem exec_respondResult {i : Instr} {s : State} (hs : s.seq = .resultReady)
    (hop : (program i)[s.upc.toNat]? = some .respondResult) :
    exec i s = .next (respond .ok (resultValue s) s) :=
  exec_busy_op i (by simp [hs]) (by simp [State.waiting, hs]) hop

end Sys2Proof.Machine

/-! ### The statements of 30_encoding.md -/

namespace Sys2Proof.Proofs

open Sys2Proof Sys2Proof.Machine

/-- Settles O1: the fields of the encoded word are the opcode and the operands, and that opcode's row reads them. -/
theorem decodeOfEncodeIsTheInstruction : Obligations.DecodeOfEncodeIsTheInstruction := decode_encode

/-- Settles O2: each field of the decoded instruction is the word's under its part of the mask. -/
theorem encodeOfDecodeKeepsTheReadFields : Obligations.EncodeOfDecodeKeepsTheReadFields := fun _ _ => encode_of_decode

/-- Settles O3, from the two cases of the opcode map. -/
theorem reservedOpcodesAreTheUnlistedOnes : Obligations.ReservedOpcodesAreTheUnlistedOnes := by
  refine ⟨fun w => ?total, fun w op => ?reserved, by decide⟩
  case total =>
    obtain ⟨_, i, hi, hop⟩ | ⟨_, hr⟩ := decodeFields_cases (opField w) (tField w) (aField w) (bField w)
    · exact .inr ⟨i, hi, hop⟩
    · exact .inl hr
  case reserved =>
    obtain ⟨hmem, i, hi, _⟩ | ⟨hmem, hr⟩ := decodeFields_cases (opField w) (tField w) (aField w) (bField w)
    · refine ⟨fun h => (nomatch hi.symm.trans h), ?_⟩
      rintro ⟨rfl, hn⟩
      exact absurd hmem hn
    · refine ⟨fun h => ?_, ?_⟩
      · cases hr.symm.trans h
        exact ⟨rfl, hmem⟩
      · rintro ⟨rfl, _⟩
        exact hr

/-- Settles O23: every refused command is accepted by `refuse`. -/
theorem refusedCommandsChangeNothing : Obligations.RefusedCommandsChangeNothing := by
  intro i s hs hr
  refine ⟨refuse s, ?_, respond_answers _ 0 s⟩
  rw [exec_idle i hs, acceptOf_refused hr]

/-- Settles O4, by evaluating the decoder on the nine words. -/
theorem writtenOutWordsDecode : Obligations.WrittenOutWordsDecode :=
  ⟨rfl, rfl, rfl, rfl, rfl, rfl, rfl, rfl, rfl⟩

/-- Settles O5: the written-out lines are evaluated, and a pseudo-instruction expands whatever its operand. -/
theorem assemblerLinesEncode : Obligations.AssemblerLinesEncode := by
  refine ⟨by decide, by decide, by decide, by decide, fun n h0 h255 => ?_⟩
  have ht := asmT_of_byte h0 h255
  simp [assembleLine, expandPseudo, ht]

/-- Settles O15: the layout of the word, and the responses under every move. -/
theorem responseWordLayout : Obligations.ResponseWordLayout := by
  refine ⟨fun st v => ⟨rspWord_badop st v, rspWord_range st v, ?value⟩, fun s t hr h => ?responses⟩
  case value => exact rspWord_value st v
  case responses => exact (step_inv h).respondsAtMostOnce (not_resetNext_iff.1 hr)

/-- Settles O16: the last micro-step of each of the four responds with `resultValue`. -/
theorem resultValueLayout : Obligations.ResultValueLayout := by
  intro i s hs hi
  have hop : (program i)[s.upc.toNat]? = some .respondResult := by
    obtain ⟨rfl | ⟨c, rfl | rfl⟩, hu⟩ | ⟨rfl, hu⟩ := hi <;> rw [hu] <;> rfl
  refine ⟨_, rspWord .ok (resultValue s), exec_respondResult hs hop, rfl, ?res, ?resg, ?above, ?status, ?value⟩
  case status => exact rspWord_extract_status .ok _
  case value => exact rspWord_value .ok _
  all_goals rw [rspWord_extract_value .ok _ (by decide), resultValue_eq_append]
  case res => exact (BitVec.extractLsb'_append_eq_of_add_le (by decide)).trans BitVec.extractLsb'_append_eq_right
  case resg => exact (BitVec.extractLsb'_append_eq_of_add_le (by decide)).trans BitVec.extractLsb'_append_eq_left
  case above => exact BitVec.extractLsb'_append_eq_left

/-- Settles O24, row by row of the range table. -/
theorem validRangesAreThoseOfTheTable : Obligations.ValidRangesAreThoseOfTheTable := by
  intro t a b
  iterate 18 refine ⟨wellFormed_iff rfl rfl, ?_⟩
  exact ⟨⟨rfl, rfl, rfl, rfl⟩, fun _ => fallsBack_inv⟩

end Sys2Proof.Proofs

/-! SUPPORT. The codec (40_codec.md): the configuration word as a concatenation and as a sum, masks taken field by
field, table lookups in range and out of it, the size of the millivolt product, and commands answered as they are
accepted. -/

namespace Sys2Proof.Machine

/-! ### The configuration word as a concatenation -/

/-- `{OS, MUX, GAIN, MODE, RATE, CMODE, CPOL, CLAT, CQUE}` (40_codec.md R81). -/
def Session.concat (S : Session) : Word :=
  S.os ++ S.mux ++ S.gain ++ S.mode ++ S.rate ++ S.cmode ++ S.cpol ++ S.clat ++ S.cque

theorem Codec.decode_concat (S : Session) : Codec.decode S.concat = S := by
  obtain ⟨cque, clat, cpol, cmode, rate, mode, gain, mux, os⟩ := S
  simp only [Codec.decode, Session.concat, Session.mk.injEq]
  refine ⟨BitVec.extractLsb'_append_eq_right, ?_, ?_, ?_, ?_, ?_, ?_, ?_, ?os⟩
  -- Each further field is at the low end of what is left once the fields below it are dropped.
  all_goals repeat rw [BitVec.extractLsb'_append_eq_of_le (by decide)]
  case os => exact BitVec.extractLsb'_eq_self
  all_goals exact BitVec.extractLsb'_append_eq_right

theorem Codec.encode_eq_concat (S : Session) : Codec.encode S = S.concat := by
  rw [← Codec.encode_decode S.concat, Codec.decode_concat]

/-- The two parts of a concatenation do not overlap, so it is a sum. -/
theorem toNat_append_eq_add {m n : Nat} (x : BitVec m) (y : BitVec n) :
    (x ++ y).toNat = x.toNat * 2 ^ n + y.toNat := by
  rw [BitVec.toNat_append, ← Nat.shiftLeft_add_eq_or_of_lt y.isLt, Nat.shiftLeft_eq]

theorem Session.toNat_concat (S : Session) :
    S.concat.toNat = S.cque.toNat + 4 * S.clat.toNat + 8 * S.cpol.toNat + 16 * S.cmode.toNat + 32 * S.rate.toNat +
      256 * S.mode.toNat + 512 * S.gain.toNat + 4096 * S.mux.toNat + 32768 * S.os.toNat := by
  simp only [Session.concat, toNat_append_eq_add]
  omega

/-! ### Masks, field by field -/

/-- The fields of `S`, each under the same field of `M`. -/
def Session.mask (S M : Session) : Session where
  cque := S.cque &&& M.cque
  clat := S.clat &&& M.clat
  cpol := S.cpol &&& M.cpol
  cmode := S.cmode &&& M.cmode
  rate := S.rate &&& M.rate
  mode := S.mode &&& M.mode
  gain := S.gain &&& M.gain
  mux := S.mux &&& M.mux
  os := S.os &&& M.os

theorem Codec.decode_and (w m : Word) : Codec.decode (w &&& m) = (Codec.decode w).mask (Codec.decode m) := by
  simp only [Codec.decode, Session.mask, BitVec.extractLsb'_and]

/-- A mask on the configuration word is a mask on each field. -/
theorem Codec.encode_and (S : Session) (m : Word) :
    Codec.encode S &&& m = Codec.encode (S.mask (Codec.decode m)) := by
  rw [← Codec.encode_decode (Codec.encode S &&& m), Codec.decode_and, Codec.decode_encode]

theorem Codec.encode_injective : Function.Injective Codec.encode := Function.LeftInverse.injective Codec.decode_encode

/-! ### One field of a word -/

/-- To shift right and mask is to extract. -/
theorem ushiftRight_and_eq_extractLsb' (w : Word) (lo width n : Nat) :
    ((w >>> lo) &&& BitVec.ofNat 16 (2 ^ width - 1)).setWidth n = (w.extractLsb' lo width).setWidth n := by
  apply BitVec.eq_of_getElem_eq
  intro i hi
  simp only [BitVec.getElem_setWidth, BitVec.getLsbD_and, BitVec.getLsbD_ushiftRight, BitVec.getLsbD_ofNat,
    BitVec.getLsbD_extractLsb', Nat.testBit_two_pow_sub_one]
  by_cases h : i < 16
  · rw [decide_eq_true h, Bool.true_and, Bool.and_comm]
  · rw [BitVec.getLsbD_of_ge w (lo + i) (by omega), Bool.false_and, Bool.and_false]

theorem Codec.field_eq_extract (w : Word) {f : Byte} {lo width : Nat} (h : fieldTable[f.toNat]? = some (lo, width)) :
    Codec.field w f = some ((w.extractLsb' lo width).setWidth 3) := by
  simp only [Codec.field, h, ushiftRight_and_eq_extractLsb']

/-! ### Table lookups -/

theorem outOfRange_of_le {t : Byte} {m : Nat} (h : t.toNat ≤ m) : outOfRange t m = false :=
  decide_eq_false (Nat.not_lt.2 h)

theorem outOfRange_of_lt {t : Byte} {m : Nat} (h : m < t.toNat) : outOfRange t m = true := decide_eq_true h

theorem isSome_lookup_iff {α : Type} {m : Nat} (v : Vector α (m + 1)) (t : Byte) :
    (v[t.toNat]?).isSome ↔ t.toNat ≤ m := by
  simp

theorem some_getD_lookup {α : Type} {m : Nat} (v : Vector α (m + 1)) (d : α) {t : Byte} (h : t.toNat ≤ m) :
    some ((v[t.toNat]?).getD d) = v[t.toNat]? := by
  obtain ⟨a, ha⟩ := lookup_inRange v (outOfRange_of_le h)
  rw [ha, Option.getD_some]

theorem getD_lookup_of_lt {α : Type} {m : Nat} (v : Vector α (m + 1)) (d : α) {t : Byte} (h : m < t.toNat) :
    (v[t.toNat]?).getD d = d := by
  rw [lookup_outOfRange v (outOfRange_of_lt h), Option.getD_none]

theorem map_toNat_lookup {w m : Nat} (v : Vector (BitVec w) m) (n : Nat) :
    (v[n]?).map BitVec.toNat = (v.toList.map BitVec.toNat)[n]? := by
  rw [List.getElem?_map, Vector.getElem?_toList]

theorem some_toNat_getD_lookup {w m : Nat} (v : Vector (BitVec w) (m + 1)) (d : BitVec w) {t : Byte}
    (h : t.toNat ≤ m) : some ((v[t.toNat]?).getD d).toNat = (v.toList.map BitVec.toNat)[t.toNat]? := by
  rw [← map_toNat_lookup, ← some_getD_lookup v d h, Option.map_some, Option.getD_some]

/-! ### Delays, scales and multiplexer codes -/

theorem Codec.delayFor_of_le {r : Byte} (h : r.toNat ≤ 7) :
    some (Codec.delayFor r).toNat = [126, 64, 33, 17, 9, 5, 4, 3][r.toNat]? :=
  some_toNat_getD_lookup delayMs _ h

theorem Codec.delayFor_of_lt {r : Byte} (h : 7 < r.toNat) : Codec.delayFor r = 126 := getD_lookup_of_lt delayMs _ h

theorem Codec.scale128_of_le (c : Config) {g : Byte} (h : g.toNat ≤ 5) :
    some (Codec.scale128 c g) = c.scale128[g.toNat]? := some_getD_lookup c.scale128 _ h

theorem Codec.scale128_of_lt (c : Config) {g : Byte} (h : 5 < g.toNat) : Codec.scale128 c g = 0 :=
  getD_lookup_of_lt c.scale128 _ h

theorem Codec.scale128_standard {g : Byte} (h : g.toNat ≤ 5) :
    some (Codec.scale128 Config.standard g).toNat = [24, 16, 8, 4, 2, 1][g.toNat]? :=
  some_toNat_getD_lookup Config.standard.scale128 _ h

theorem Codec.scale128_standard_le (g : Byte) : (Codec.scale128 Config.standard g).toNat ≤ 24 := by
  obtain h | h := Nat.lt_or_ge 5 g.toNat
  · rw [Codec.scale128_of_lt _ h]
    decide
  · have hmem := List.mem_of_getElem? (Codec.scale128_standard h).symm
    have hall : ∀ n ∈ [24, 16, 8, 4, 2, 1], n ≤ 24 := by decide
    exact hall _ hmem

theorem Codec.chmux_of_some {c : Config} {t : Byte} {m : BitVec 3} (h : c.muxCh[t.toNat]? = some m) :
    Codec.chmux c t = m := by
  rw [Codec.chmux, channelMux, h, Option.getD_some]

theorem Codec.chmux_of_lt (c : Config) {t : Byte} (h : 3 < t.toNat) : Codec.chmux c t = c.muxCh[0] :=
  getD_lookup_of_lt c.muxCh _ h

theorem Codec.chmux_standard {t : Byte} (h : t.toNat ≤ 3) : (Codec.chmux Config.standard t).toNat = 4 + t.toNat := by
  have hcode : some (Codec.chmux Config.standard t).toNat = (List.range' 4 4)[t.toNat]? :=
    some_toNat_getD_lookup Config.standard.muxCh _ h
  rw [List.getElem?_range' (by omega), Nat.one_mul] at hcode
  exact Option.some.inj hcode

theorem Codec.diffmux_standard {t : Byte} (h : t.toNat ≤ 3) :
    (Codec.diffmux Config.standard t).map BitVec.toNat = some t.toNat := by
  have hcode : (Codec.diffmux Config.standard t).map BitVec.toNat = (List.range 4)[t.toNat]? :=
    map_toNat_lookup Config.standard.muxDiff t.toNat
  rw [hcode, List.getElem?_range (by omega)]

/-! ### The millivolt product -/

/-- A word widened with zeros is not negative. -/
theorem toInt_setWidth_word (v : Word) : (v.setWidth 32).toInt = v.toNat := by
  have hv := v.isLt
  have h : (v.setWidth 32).toNat = v.toNat := BitVec.toNat_setWidth_of_le (by decide)
  rw [BitVec.toInt_eq_toNat_of_lt (by omega), h]

theorem abs_toInt_word (v : Word) : |v.toInt| ≤ 32768 := abs_le.2 ⟨v.le_toInt, v.toInt_lt.le⟩

theorem abs_toInt_mul_le (code : Word) {n b : Nat} (h : n ≤ b) : |code.toInt * n| ≤ 32768 * b := by
  rw [abs_mul, Nat.abs_cast]
  exact mul_le_mul (abs_toInt_word code) (Int.ofNat_le.2 h) (Int.natCast_nonneg n) (by decide)

/-- The product of a code and any scale fits in 32 bits, so it is exact whatever the parameters are. -/
theorem Codec.toInt_toMv128 (c : Config) (code : Word) (g : Byte) :
    (Codec.toMv128 c code g).toInt = code.toInt * (Codec.scale128 c g).toNat := by
  obtain ⟨hlo, hhi⟩ := abs_le.1 (abs_toInt_mul_le code (Nat.le_of_lt_succ (Codec.scale128 c g).isLt))
  rw [Codec.toMv128, BitVec.toInt_mul, BitVec.toInt_signExtend_of_le (by decide), toInt_setWidth_word]
  exact Int.bmod_eq_of_le (by omega) (by omega)

theorem Codec.toMv128_of_lt (c : Config) (code : Word) {g : Byte} (h : 5 < g.toNat) : Codec.toMv128 c code g = 0 := by
  rw [Codec.toMv128, Codec.scale128_of_lt c h]
  exact BitVec.mul_zero

/-! ### Commands answered as they are accepted -/

/-- The row of the opcode map is chosen by `OP` (30_encoding.md R63). -/
theorem decode_of_opcode {w : Cmd} {op : Byte} (h : w.extractLsb' 40 8 = op) :
    decode w = decodeFields op (w.extractLsb' 32 8) (w.extractLsb' 16 16) (w.extractLsb' 0 16) := by
  rw [← h]
  rfl

theorem exec_answers {i : Instr} {s : State} {st : Status} {v : BitVec 32} (hs : s.seq = .idle)
    (h : acceptOf i s = respond st v s) : ∃ t, exec i s = .next t ∧ Answers s (rspWord st v) t :=
  ⟨respond st v s, by rw [exec_idle i hs, h], respond_answers st v s⟩

theorem acceptOf_fld_of_field {a : Word} {f : Byte} {v : BitVec 3} (h : Codec.field a f = some v) (s : State) :
    acceptOf (.fld f a) s = respond .ok (v.setWidth 32) s := by
  simp only [acceptOf, h]

theorem refused_fld_of_lt {f : Byte} (a : Word) (h : 8 < f.toNat) : refused (.fld f a) = true := by
  rw [refused_eq_rangeOf rfl, rangeOf_eq rfl rfl, outOfRange_of_lt h]

end Sys2Proof.Machine

/-! ### The statements of 40_codec.md -/

namespace Sys2Proof.Proofs

open Sys2Proof Sys2Proof.Machine

/-- Settles O7: the concatenation decodes to the session, and its parts do not overlap. -/
theorem encodeIsTheConcatenationAndTheSum : Obligations.EncodeIsTheConcatenationAndTheSum :=
  fun S => ⟨Codec.encode_eq_concat S, rfl, by rw [Codec.encode_eq_concat, S.toNat_concat]⟩

/-- Settles O8: a mask on the word is a mask on each field, and each of the nine masks is 0 on the field it leaves
out. -/
theorem oneFieldMovesOnlyItsOwnBits : Obligations.OneFieldMovesOnlyItsOwnBits := by
  refine ⟨fun _ _ h => Codec.encode_injective h, fun S x3 x2 x1 => ?_⟩
  simp only [Codec.encode_and]
  refine ⟨?_, ?_, ?_, ?_, ?_, ?_, ?_, ?_, ?_⟩
  all_goals exact congrArg Codec.encode (by simp [Session.mask, Codec.decode])

/-- Settles O9, row by row of the field table. -/
theorem fieldReadsTheDecodedRecord : Obligations.FieldReadsTheDecodedRecord := by
  intro w
  refine ⟨⟨rfl, ?_⟩, ⟨rfl, ?_⟩, ⟨rfl, ?_⟩, ⟨rfl, ?_⟩, ⟨rfl, ?_⟩, ⟨rfl, ?_⟩, ⟨rfl, ?_⟩, ⟨rfl, ?_⟩, ⟨rfl, ?_⟩⟩
  all_goals exact Codec.field_eq_extract w rfl

/-- Settles O12: the exact product for any scales, and the largest default scale. -/
theorem millivoltProductIsExact : Obligations.MillivoltProductIsExact := by
  refine ⟨fun code g => ⟨Codec.toInt_toMv128 _ code g, ?_⟩, fun c code g h => Codec.toMv128_of_lt c code h⟩
  rw [Codec.toInt_toMv128]
  exact abs_toInt_mul_le code (Codec.scale128_standard_le g)

/-- Settles O10, by the lookups in range and out of it. -/
theorem delayTable : Obligations.DelayTable := ⟨fun _ => Codec.delayFor_of_le, fun _ => Codec.delayFor_of_lt⟩

/-- Settles O11, by the lookups in range and out of it. -/
theorem scaleTable : Obligations.ScaleTable :=
  ⟨fun c _ => Codec.scale128_of_le c, fun c _ => Codec.scale128_of_lt c, fun _ => Codec.scale128_standard⟩

/-- Settles O13: both tables have four entries, and the default ones are consecutive codes. -/
theorem targetToMultiplexerCode : Obligations.TargetToMultiplexerCode := by
  refine ⟨fun c t m => Codec.chmux_of_some, fun c t h => ?fallback, fun c t => rfl, fun c t => ?defined,
    fun t h => ?standard⟩
  case fallback => exact congrArg some (Codec.chmux_of_lt c h)
  case defined => exact isSome_lookup_iff c.muxDiff t
  case standard => exact ⟨Codec.chmux_standard h, Codec.diffmux_standard h⟩

/-- Settles O17: ENC answers as it is accepted; the default word survives decoding and encoding. -/
theorem encAnswersThePackedSession : Obligations.EncAnswersThePackedSession :=
  ⟨fun _ => decode_of_opcode, fun _ hs => exec_answers hs rfl, fun c => Codec.encode_decode c.defaultWord⟩

/-- Settles O18: the field table has nine rows, and without a row FLD is refused. -/
theorem fldAnswersOneField : Obligations.FldAnswersOneField := by
  refine ⟨fun _ => decode_of_opcode, fun s f a hs => ⟨fun h => ?field, fun h => ?refused⟩⟩
  case field =>
    obtain ⟨⟨lo, width⟩, hx⟩ := lookup_inRange fieldTable (outOfRange_of_le h)
    have hv := Codec.field_eq_extract a hx
    obtain ⟨t, ht, hans⟩ := exec_answers hs (acceptOf_fld_of_field hv s)
    exact ⟨t, _, ht, hv, hans⟩
  case refused => exact exec_answers hs (acceptOf_refused (refused_fld_of_lt a h) s)

/-- Settles O19: DLY answers as it is accepted. -/
theorem dlyAnswersTheDelay : Obligations.DlyAnswersTheDelay :=
  ⟨fun _ => decode_of_opcode, fun _ _ hs => exec_answers hs rfl⟩

/-- Settles O20: SCL answers as it is accepted. -/
theorem sclAnswersTheScale : Obligations.SclAnswersTheScale :=
  ⟨fun _ => decode_of_opcode, fun _ _ hs => exec_answers hs rfl⟩

/-- Settles O21: MV answers as it is accepted. -/
theorem mvAnswersTheProduct : Obligations.MvAnswersTheProduct :=
  ⟨fun _ => decode_of_opcode, fun _ _ _ hs => exec_answers hs rfl⟩

end Sys2Proof.Proofs

/-! SUPPORT. The setter template (41_setters.md R100, R109): a setter is accepted with the session the tables give, and
its two micro-steps do not depend on which setter it is. -/

namespace Sys2Proof.Machine

/-! ### The accept -/

/-- The template of an accepted setter (41_setters.md R100): its update is its row of the session table. -/
theorem setterAccepts {i : Instr} {range : Bool} {update : Config → Session → Session} (hk : isSetter i = true)
    (hr : refused i = false) (hrange : rangeOf i = range) (hup : ∀ c S, sessionAfter c i S = update c S) :
    SetterAccepts i range update := by
  obtain rfl : (fun c => sessionAfter c i) = update := funext₂ hup
  intro s hs
  obtain ⟨hacc, _⟩ := acceptOf_setter hk hr s
  rw [exec_idle i hs, hacc, hrange]
  constructor
  · intro hm
    exact ⟨_, congrArg Host.Outcome.next (if_pos hm), respond_answers (.ofRange range) 0 _⟩
  · intro hm
    exact congrArg Host.Outcome.next (if_neg hm)

/-- A setter that refuses operands above `m` is accepted up to `m`, with RANGE 0. -/
theorem setterAccepts_of_le {i : Instr} {t : Byte} {m : Nat} {update : Config → Session → Session}
    (hk : isSetter i = true) (hf : fallsBack i = false) (ht : i.operandT = some t) (hm : i.maxT = some m)
    (hup : ∀ c S, refused i = false → sessionAfter c i S = update c S) (h : t.toNat ≤ m) :
    SetterAccepts i false update := by
  have hrange : rangeOf i = false := (rangeOf_eq ht hm).trans (outOfRange_of_le h)
  have hr : refused i = false := (refused_eq_rangeOf hf).trans hrange
  exact setterAccepts hk hr hrange fun c S => hup c S hr

theorem refused_setch (t : Byte) : refused (.setch t) = false := by simp [refused, fallsBack]

/-! ### The two micro-steps -/

/-- Only SETCH, which falls back, has a RANGE to answer with once it is in flight. -/
theorem program_setter {i : Instr} (hk : isSetter i = true) :
    program i = setterProgram (.ofRange (fallsBack i && rangeOf i)) := by
  cases i with
  | setch t =>
    rw [rangeOf_eq rfl rfl]
    rfl
  | setdf | setgain | setrate | setcmode | setcpol | setclat | setcque => rfl
  | _ => cases hk

theorem exec_setter_issue {i : Instr} {s : State} (hk : isSetter i = true) (hs : s.seq = .issue) (hu : s.upc = 0) :
    exec i s = .next (MicroOp.writeConfig.run s) :=
  exec_busy_op i (by simp [hs]) (by simp [State.waiting, hs]) (by rw [program_setter hk, hu]; rfl)

theorem exec_setter_configWritten {i : Instr} {s : State} (hk : isSetter i = true) (hs : s.seq = .configWritten)
    (hu : s.upc = 1) : exec i s = .next (respond (.ofRange (fallsBack i && rangeOf i)) 0 s) :=
  exec_busy_op (op := .respond _ 0) i (by simp [hs]) (by simp [State.waiting, hs])
    (by rw [program_setter hk, hu]; rfl)

end Sys2Proof.Machine

/-! ### The statement of 41_setters.md -/

namespace Sys2Proof.Proofs

open Sys2Proof Sys2Proof.Machine

/-- Settles O22: the template for each setter, with its row of the session table; the micro-steps and the refusal for
all of them at once. -/
theorem settersFollowTheirTemplate : Obligations.SettersFollowTheirTemplate := by
  refine ⟨fun t => ?setch, fun t => ?_, fun t => ?_, fun t => ?_, fun t => ?_, fun t => ?_, fun t => ?_, fun t => ?_,
    fun i s hk => ⟨fun hs hu => ?issue, fun hs hu => ?configWritten⟩, fun s i hs _ hr => ?refused, fun w => ?opcodes⟩
  case setch =>
    have hr := refused_setch t
    exact setterAccepts rfl hr (rangeOf_eq rfl rfl) fun _ _ => if_neg (by simp [hr])
  case issue => exact ⟨_, exec_setter_issue hk hs hu, writeConfig_writes s⟩
  case configWritten => exact ⟨_, exec_setter_configWritten hk hs hu, respond_answers _ 0 s⟩
  case refused => exact exec_answers hs (acceptOf_refused hr s)
  case opcodes =>
    iterate 7 refine ⟨decode_of_opcode, ?_⟩
    exact decode_of_opcode
  all_goals exact setterAccepts_of_le rfl rfl rfl rfl fun _ _ hr => if_neg (by simp [hr])

end Sys2Proof.Proofs

/-! SUPPORT. Single-shot acquisition (42_single_shot.md): the micro-sequence its three commands share, the start flag,
the settling wait, how a command in flight comes to its answer, and what an acquisition has done at each stage, whatever
schedule it meets. -/

namespace Sys2Proof.Machine

/-! ### The commands and their accept -/

theorem refused_of_lt {i : Instr} {t : Byte} {m : Nat} (ht : i.operandT = some t) (hm : i.maxT = some m)
    (hf : fallsBack i = false) (h : m < t.toNat) : refused i = true := by
  rw [refused_eq_rangeOf hf, rangeOf_eq ht hm, outOfRange_of_lt h]

theorem not_refused_of_le {i : Instr} {t : Byte} {m : Nat} (ht : i.operandT = some t) (hm : i.maxT = some m)
    (hf : fallsBack i = false) (h : t.toNat ≤ m) : refused i = false := by
  rw [refused_eq_rangeOf hf, rangeOf_eq ht hm, outOfRange_of_le h]

/-- An ACQ, or an RDCH or RDDF with an operand in range, is an acquisition that is not refused. -/
theorem acquisition_of_inRange {i : Instr} (h : i = .acq ∨ ∃ c, c.toNat ≤ 3 ∧ (i = .rdch c ∨ i = .rddf c)) :
    IsAcquisition i ∧ refused i = false := by
  obtain rfl | ⟨c, hc, rfl | rfl⟩ := h
  · exact ⟨.inl rfl, rfl⟩
  · exact ⟨.inr ⟨c, .inl rfl⟩, not_refused_of_le rfl rfl rfl hc⟩
  · exact ⟨.inr ⟨c, .inr rfl⟩, not_refused_of_le rfl rfl rfl hc⟩

theorem program_acquisition {i : Instr} (hk : IsAcquisition i) : program i = acquireProgram := by
  obtain rfl | ⟨c, rfl | rfl⟩ := hk <;> rfl

theorem path_acquisition {i : Instr} (hk : IsAcquisition i) : path i = path .acq := by
  obtain rfl | ⟨c, rfl | rfl⟩ := hk <;> rfl

/-- Past its accept every acquisition goes on as ACQ (42_single_shot.md R117, R118). -/
theorem exec_acquisition_busy {i : Instr} (hk : IsAcquisition i) {s : State} (hs : s.seq ≠ .idle) :
    exec i s = exec .acq s := by
  rw [exec_busy i hs, exec_busy .acq hs, program_acquisition hk]
  rfl

/-- In a phase that neither awaits a command nor the timer, the micro-step that UPC names is performed. -/
theorem exec_untimed_op {i : Instr} {s : State} {p : Phase} {op : MicroOp} (hs : s.seq = p)
    (hp : p ≠ .idle ∧ p ≠ .settling) (hop : (program i)[s.upc.toNat]? = some op) : exec i s = .next (op.run s) :=
  exec_busy_op i (by rw [hs]; exact hp.1) (fun hw => hp.2 (hs.symm.trans hw.1)) hop

/-- No command but an acquisition writes OS. -/
theorem WritesFields.os {i : Instr} {S S' : Session} (h : WritesFields i S S') (hk : ¬ IsAcquisition i) :
    S'.os = S.os := by
  cases i with
  | acq => exact absurd (.inl rfl) hk
  | rdch c => exact absurd (.inr ⟨c, .inl rfl⟩) hk
  | rddf c => exact absurd (.inr ⟨c, .inr rfl⟩) hk
  | _ => rw [show S' = _ from h]

theorem sessionAfter_gain_of_acquisition {i : Instr} (hk : IsAcquisition i) (c : Config) (S : Session) :
    (sessionAfter c i S).gain = S.gain := by
  obtain rfl | ⟨t, rfl | rfl⟩ := hk <;> simp only [sessionAfter] <;> split <;> rfl

theorem sessionAfter_os_of_acquisition {i : Instr} (hk : IsAcquisition i) (h : refused i = false) (c : Config)
    (S : Session) : (sessionAfter c i S).os = 1 := by
  obtain rfl | ⟨t, rfl | rfl⟩ := hk <;> simp [sessionAfter, h]

/-! ### The start flag -/

/-- An accept leaves OS, or sets it. -/
theorem acceptOf_os (i : Instr) (s : State) : (acceptOf i s).sess.os = s.sess.os ∨ (acceptOf i s).sess.os = 1 := by
  by_cases hk : IsAcquisition i
  · cases h : refused i with
    | true => exact .inl (by rw [acceptOf_refused h]; rfl)
    | false => exact .inr (by rw [acceptOf_acquisition hk h, issue_sess, sessionAfter_os_of_acquisition hk h])
  · exact .inl ((acceptOf_writesFields i s).os hk)

theorem MicroOp.run_os (op : MicroOp) (s : State) : (op.run s).sess.os = s.sess.os := by
  cases op with
  | readConv => exact congrArg Session.os (readConv_sess s)
  | writeConfig | contWriteConfig | writeReg | settle | respond | respondResult => rfl

theorem stall_os (k : Nat) (s : State) : (stall k s).sess.os = s.sess.os := by
  obtain ⟨_, he⟩ | ⟨tr, u, hp, he⟩ := stall_cases k s
  · rw [he]
  · obtain ⟨_, _, _, _, op, _, _, htr⟩ := pendingTransaction_some hp
    obtain ⟨_, _, _, hb⟩ := tr.begin_frame (tr.stallAt k) u
    rw [he, hb]
    obtain rfl | ⟨_, rfl⟩ := MicroOp.transaction_state htr <;> rfl

/-- A move that is no reset leaves OS, or sets it. -/
theorem MoveMade.os {m : Move} {s t : State} (h : MoveMade m s t) (hm : ∀ n, m ≠ .reset n) :
    t.sess.os = s.sess.os ∨ t.sess.os = 1 := by
  cases h with
  | sequencer t _ ht =>
    cases ht with
    | wait | stuck | settle | reserved => exact .inl rfl
    | accept w rest i => exact acceptOf_os i (latch w rest s)
    | micro i op => exact .inl (op.run_os s)
  | tick => exact .inl (by rw [tick_sess])
  | reset n h => exact absurd h (hm n)
  | stall k => exact .inl (stall_os k s)
  | strap | host => exact .inl rfl

/-! ### The settling wait -/

/-- While the timer runs, the sequencer's move changes nothing: nothing is enabled, stalled or not. -/
theorem sequencerStep_waiting {s : State} {i : Instr} (hw : s.waiting) (hd : decode s.cur = .instr i) :
    sequencerStep s = .next s := by
  have hs : s.seq ≠ .idle := by simp [hw.1]
  cases hst : s.stalled with
  | true => exact sequencerStep_stalled hs hst
  | false => rw [sequencerStep_in_flight hs hst hd, exec_waiting i hw]

theorem step_tick_waiting {s : State} {r : List Move} (hsc : s.sched = .tick :: r) (hw : s.waiting) :
    step s = .next { s with sched := r, tmr := s.tmr - 1 } := by
  rw [step_of_sched_cons hsc, applyMove, tick_of_waiting (s := { s with sched := r }) hw]

theorem step_sequencer_waiting {s : State} {i : Instr} (hm : nextMove s = .sequencer) (hw : s.waiting)
    (hd : decode s.cur = .instr i) : step s = .next { s with sched := s.sched.tail } := by
  rw [step_of_nextMove_sequencer hm]
  exact sequencerStep_waiting (s := { s with sched := s.sched.tail }) hw hd

/-- Ticks and sequencer's moves, fewer ticks than the timer holds, only count the timer down. -/
theorem run_waiting (es r : List Move) {s : State} {i : Instr} (hs : s.seq = .settling) (hd : decode s.cur = .instr i)
    (hsc : s.sched = es ++ r) (hes : ∀ m ∈ es, m = .tick ∨ m = .sequencer) (hlt : es.count .tick < s.tmr.toNat) :
    Host.Core.run Sys2Proof.core es.length s =
      .next { s with sched := r, tmr := s.tmr - BitVec.ofNat 7 (es.count .tick) } := by
  induction es generalizing s with
  | nil =>
    obtain rfl : s.sched = r := hsc
    simp [Host.Core.run]
  | cons m es ih =>
    obtain ⟨hm, htail⟩ := List.forall_mem_cons.1 hes
    have hw : s.waiting := ⟨hs, fun h0 => by simp [h0] at hlt⟩
    obtain rfl | rfl := hm
    · rw [List.count_cons_self] at hlt ⊢
      have hrun := ih (s := { s with sched := es ++ r, tmr := s.tmr - 1 }) hs hd rfl htail (by dsimp only; bv_omega)
      have htmr : s.tmr - 1 - BitVec.ofNat 7 (es.count .tick) = s.tmr - BitVec.ofNat 7 (es.count .tick + 1) := by
        bv_omega
      rw [htmr] at hrun
      exact (run_succ (step_tick_waiting hsc hw)).trans hrun
    · rw [List.count_cons_of_ne (by decide)] at hlt ⊢
      have hrun := ih (s := { s with sched := s.sched.tail }) hs hd (by simp [hsc]) htail hlt
      exact (run_succ (step_sequencer_waiting (nextMove_cons hsc) hw hd)).trans hrun

/-! ### A command in flight comes to its answer -/

/-- A micro-step that gives the response. -/
def MicroOp.answers : MicroOp → Bool
  | .respond _ _ | .respondResult => true
  | .writeConfig | .contWriteConfig | .writeReg _ _ | .settle | .readConv => false

/-- How many steps a micro-step takes at most, the wait it begins included (40_codec.md R85). -/
def MicroOp.maxSteps : MicroOp → Nat
  | .settle => 127
  | .writeConfig | .contWriteConfig | .writeReg _ _ | .readConv | .respond _ _ | .respondResult => 1

/-- From `s` a run of at most `b` steps comes to IDLE with one response more. -/
def ReturnsWithin (b : Nat) (s : State) : Prop :=
  ∃ (n : Nat) (t : State) (r : Rsp), n ≤ b ∧ Host.Core.run Sys2Proof.core n s = .next t ∧
    t.seq = .idle ∧ t.rsps = s.rsps ++ [r]

theorem ReturnsWithin.mono {b c : Nat} {s : State} (h : ReturnsWithin b s) (hle : b ≤ c) : ReturnsWithin c s := by
  obtain ⟨n, t, r, hn, ht⟩ := h
  exact ⟨n, t, r, hn.trans hle, ht⟩

/-- Steps that give no response come before a return. -/
theorem ReturnsWithin.after {b k d : Nat} {s u : State} (h : ReturnsWithin b u) (hd : d ≤ k) (hrsps : u.rsps = s.rsps)
    (hrun : ∀ n, Host.Core.run Sys2Proof.core (n + d) s = Host.Core.run Sys2Proof.core n u) :
    ReturnsWithin (k + b) s := by
  obtain ⟨n, t, r, hn, ht, hidle, hr⟩ := h
  exact ⟨n + d, t, r, by omega, (hrun n).trans ht, hidle, hr.trans (by rw [hrsps])⟩

theorem Codec.delayFor_le (r : Byte) : (Codec.delayFor r).toNat ≤ 126 := by
  obtain h | h := Nat.lt_or_ge 7 r.toNat
  · rw [Codec.delayFor_of_lt h]
    decide
  · have hmem := List.mem_of_getElem? (Codec.delayFor_of_le h).symm
    have hall : ∀ n ∈ [126, 64, 33, 17, 9, 5, 4, 3], n ≤ 126 := by decide
    exact hall _ hmem

/-- Micro-steps that end in a response are performed within the sum of their bounds. -/
theorem Runs.returnsWithin {ops : List MicroOp} {s : State} (h : Runs ops s) (hops : ∃ op ∈ ops, op.answers = true) :
    ReturnsWithin (ops.map MicroOp.maxSteps).sum s := by
  induction ops generalizing s with
  | nil => simp at hops
  | cons op ops ih =>
    rw [List.map_cons, List.sum_cons]
    cases op with
    | respond st v => exact ⟨1, _, _, Nat.le_add_right .., h.run_cons 0, rfl, rfl⟩
    | respondResult => exact ⟨1, _, _, Nat.le_add_right .., h.run_cons 0, rfl, rfl⟩
    | settle =>
      have hrest := ih h.settled (by simpa [MicroOp.answers] using hops)
      have hd := Codec.delayFor_le (s.sess.rate.setWidth 8)
      exact hrest.after (d := _ + 1) (Nat.succ_le_succ hd) rfl h.run_settle
    | readConv =>
      exact (ih (h.tail rfl) (by simpa [MicroOp.answers] using hops)).after le_rfl (readConv_rsps s) h.run_cons
    | writeConfig | contWriteConfig | writeReg =>
      exact (ih (h.tail rfl) (by simpa [MicroOp.answers] using hops)).after le_rfl rfl h.run_cons

/-- Each phase of a command's path has its micro-step. -/
theorem program_length (i : Instr) : (program i).length = (path i).length := by
  cases i <;> rfl

/-- The last micro-step of every command gives the response. -/
theorem program_getLast_answers {i : Instr} {op : MicroOp} (h : op ∈ (program i).getLast?) : op.answers = true := by
  cases i <;> cases h <;> rfl

theorem exists_answers_of_path {i : Instr} {n : Nat} {p : Phase} (h : (path i)[n]? = some p) :
    ∃ op ∈ (program i).drop n, op.answers = true := by
  have hlt : n < (program i).length := (program_length i).symm ▸ (List.getElem?_eq_some_iff.1 h).1
  have hne : (program i).drop n ≠ [] := by simpa using hlt
  refine ⟨_, List.getLast_mem hne, program_getLast_answers (i := i) ?_⟩
  rw [List.getLast_drop]
  exact List.getLast?_eq_some_getLast _

theorem maxSteps_drop_le (i : Instr) (n : Nat) : (((program i).drop n).map MicroOp.maxSteps).sum ≤ 130 := by
  have hle : ((program i).map MicroOp.maxSteps).sum ≤ 130 := by
    cases i <;> exact Nat.le_of_ble_eq_true rfl
  exact ((List.drop_sublist n _).map _).sum_le_sum (fun _ _ => Nat.zero_le _) |>.trans hle

/-- Only an acquisition settles, and then has to read and to answer (42_single_shot.md R116). -/
theorem drop_program_of_settling {i : Instr} {n : Nat} (h : (path i)[n]? = some .settling) :
    (program i).drop n = [.readConv, .respondResult] := by
  have hmem := List.mem_of_getElem? h
  cases i with
  | acq | rdch | rddf =>
    obtain _ | _ | _ | _ | n := n <;> cases h
    rfl
  | _ => simp [path] at hmem

/-- A command in flight returns to IDLE once the ticks of its settling wait have come. -/
theorem State.InStep.returnsWithin {s : State} (h : s.InStep) (hs : s.seq ≠ .idle) (hst : s.stalled = false)
    (hsc : s.sched = []) : ReturnsWithin 130 s := by
  obtain hidle | ⟨i, hd, hp⟩ := h
  · exact absurd hidle hs
  have hans := exists_answers_of_path hp
  by_cases hset : s.seq = .settling
  · have hops := drop_program_of_settling (hp.trans (congrArg some hset))
    have hruns : Runs ((program i).drop s.upc.toNat) { s with tmr := 0 } :=
      ⟨hs, fun hw => hw.2 rfl, hst, hsc, i, hd, rfl⟩
    have hret := hruns.returnsWithin hans
    have htmr := s.tmr.isLt
    rw [hops] at hret
    exact hret.after (k := 128) (by omega) rfl fun n => run_ticks n _ hset hsc rfl
  · have hruns : Runs ((program i).drop s.upc.toNat) s := ⟨hs, fun hw => hset hw.1, hst, hsc, i, hd, rfl⟩
    exact (hruns.returnsWithin hans).mono (maxSteps_drop_le i _)

/-! ### No state in step stops -/

theorem tick_frame (s : State) : ∃ x, tick s = { s with tmr := x } := by
  by_cases hw : s.waiting
  · exact ⟨_, tick_of_waiting hw⟩
  · exact ⟨s.tmr, tick_of_not_waiting hw⟩

theorem Accepted.inStep {i : Instr} {s t : State} (h : Accepted i s t) (hd : decode s.cur = .instr i) : t.InStep := by
  cases h with
  | answered | stored => exact .inl rfl
  | issued _ _ hp => exact .inr ⟨i, hd, hp⟩

theorem SequencerStep.inStep {s t : State} (h : SequencerStep s t) (hin : s.InStep) : t.InStep := by
  cases h with
  | wait | stuck | settle => exact hin
  | accept w rest i _ _ hd => exact (acceptOf_accepted i (latch w rest s)).inStep hd
  | reserved => exact .inl rfl
  | micro i op hs _ hd _ hop => exact op.run_inStep hin hs hd hop

theorem MoveMade.inStep {m : Move} {s t : State} (h : MoveMade m s t) (hin : s.InStep) : t.InStep := by
  cases h with
  | sequencer t _ ht => exact ht.inStep hin
  | tick =>
    obtain ⟨_, h⟩ := tick_frame s
    rw [h]
    exact hin
  | reset => exact .inl rfl
  | stall k =>
    obtain ⟨_, _, _, _, _, h⟩ := stall_frame k s
    rw [h]
    exact hin
  | strap | host => exact hin

/-- The sequencer accepts whatever is offered, and a command in step with its phase has a micro-step to perform. -/
theorem State.InStep.sequencerStep_next {s : State} (h : s.InStep) : ∃ t, sequencerStep s = .next t := by
  by_cases hs : s.seq = .idle
  · cases hc : s.cmds with
    | nil => exact ⟨_, sequencerStep_none_offered hs hc⟩
    | cons w rest =>
      cases hd : decode w with
      | instr i => exact ⟨_, (sequencerStep_accept hs hc hd).trans (exec_idle i hs)⟩
      | reserved op => exact ⟨_, sequencerStep_reserved hs hc hd⟩
  · cases hst : s.stalled with
    | true => exact ⟨_, sequencerStep_stalled hs hst⟩
    | false =>
      obtain hidle | ⟨i, hd, hp⟩ := h
      · exact absurd hidle hs
      by_cases hw : s.waiting
      · exact ⟨_, sequencerStep_waiting hw hd⟩
      · have hlt : s.upc.toNat < (program i).length := (program_length i).symm ▸ (List.getElem?_eq_some_iff.1 hp).1
        exact ⟨_, (sequencerStep_in_flight hs hst hd).trans (exec_busy_op i hs hw (List.getElem?_eq_getElem hlt))⟩

theorem State.InStep.applyMove_next {s : State} (h : s.InStep) (m : Move) : ∃ t, applyMove m s = .next t := by
  cases m with
  | sequencer => exact h.sequencerStep_next
  | tick | reset | stall | strap | host => exact ⟨_, rfl⟩

theorem SequencerStep.sched_busCut {s t : State} (h : SequencerStep s t) :
    t.sched = s.sched ∧ t.busCut = s.busCut := by
  cases h with
  | wait | stuck | settle | reserved => exact ⟨rfl, rfl⟩
  | accept w rest i =>
    have hk := acceptOf_keepsPorts i (latch w rest s)
    exact ⟨hk.sched, hk.busCut⟩
  | micro i op =>
    have hk := op.run_keepsPorts s
    exact ⟨hk.sched, hk.busCut⟩

theorem MoveMade.sched {m : Move} {s t : State} (h : MoveMade m s t) : t.sched = s.sched := by
  cases h with
  | sequencer t _ ht => exact ht.sched_busCut.1
  | tick =>
    obtain ⟨_, h⟩ := tick_frame s
    rw [h]
  | reset n =>
    obtain ⟨_, _, _, _, _, h⟩ := cutPending_frame n s
    rw [applyReset_sched, h]
  | stall k =>
    obtain ⟨_, _, _, _, _, h⟩ := stall_frame k s
    rw [h]
  | strap | host => rfl

/-- What every scheduled move keeps holds once they are all made, and they can all be made. -/
theorem run_schedule {P : State → Prop} (es r : List Move) {s : State} (hsc : s.sched = es ++ r) (hin : s.InStep)
    (hP : P s) (hpop : ∀ s x, P s → P { s with sched := x })
    (hstep : ∀ m ∈ es, ∀ s t, s.InStep → P s → MoveMade m s t → P t) :
    ∃ t, Host.Core.run Sys2Proof.core es.length s = .next t ∧ t.sched = r ∧ P t := by
  induction es generalizing s with
  | nil => exact ⟨s, rfl, hsc, hP⟩
  | cons m es ih =>
    obtain ⟨hm, hes⟩ := List.forall_mem_cons.1 hstep
    have hin' : State.InStep { s with sched := es ++ r } := hin
    obtain ⟨u, hu⟩ := hin'.applyMove_next m
    have hmade := applyMove_inv hu
    obtain ⟨t, hrun, ht⟩ := ih hmade.sched (hmade.inStep hin') (hm _ u hin' (hpop s _ hP) hmade) hes
    exact ⟨t, (run_succ ((step_of_sched_cons hsc).trans hu)).trans hrun, ht⟩

/-! ### What a move adds -/

theorem MoveMade.busCut {m : Move} {s t : State} (h : MoveMade m s t) (hm : ∀ n, m ≠ .reset n) :
    t.busCut = s.busCut := by
  cases h with
  | sequencer t _ ht => exact ht.sched_busCut.2
  | tick =>
    obtain ⟨_, h⟩ := tick_frame s
    rw [h]
  | reset n h => exact absurd h (hm n)
  | stall k =>
    obtain ⟨_, _, _, _, _, h⟩ := stall_frame k s
    rw [h]
  | strap | host => rfl

/-- Nothing on the trace is taken back. -/
theorem MoveMade.bus_prefix {m : Move} {s t : State} (h : MoveMade m s t) : s.bus <+: t.bus := by
  cases h with
  | sequencer t _ ht =>
    cases ht with
    | wait | stuck | settle | reserved => exact List.prefix_rfl
    | accept w rest i => exact (acceptOf_bus i (latch w rest s)).symm ▸ List.prefix_rfl
    | micro i op =>
      obtain ⟨es, h⟩ := op.run_bus s
      exact ⟨es, h.symm⟩
  | tick => rw [tick_bus]
  | reset n =>
    obtain ⟨fs, _, _, _, _, h⟩ := cutPending_frame n s
    exact ⟨fs, by rw [applyReset_bus, h]⟩
  | stall k =>
    obtain ⟨fs, _, _, _, _, h⟩ := stall_frame k s
    exact ⟨fs, by rw [h]⟩
  | strap | host => exact List.prefix_rfl

theorem MoveMade.rsps_prefix {m : Move} {s t : State} (h : MoveMade m s t) (hm : ∀ n, m ≠ .reset n) :
    s.rsps <+: t.rsps := by
  obtain h | ⟨st, v, h, _⟩ := h.respondsAtMostOnce hm
  · rw [h]
  · exact ⟨_, h.symm⟩

/-! ### The stages of an acquisition -/

/-- The accesses `as` have been made since `o`, and no response has been given. -/
structure Unanswered (o : State) (as : List Access) (t : State) : Prop where
  rsps : t.rsps = o.rsps
  bus : o.Shows (as.flatMap (Access.events o.addr)) t.bus

theorem Unanswered.performs {o s t : State} {as bs : List Access} (h : Unanswered o as s) (haddr : s.addr = o.addr)
    (hcut : s.busCut = o.busCut) (hp : Performs s bs t) : Unanswered o (as ++ bs) t := by
  obtain ⟨hrsps, hbus⟩ := h
  obtain ⟨hbus', hrsps', _⟩ := hp
  rw [haddr] at hbus'
  refine ⟨hrsps'.trans hrsps, ?_⟩
  rw [List.flatMap_append]
  exact hbus.trans hcut hbus'

/-- How far the acquisition of word `w`, offered in `o` and run on the session `S`, has come in `t` when it has not
answered yet. -/
inductive Acquiring (o : State) (w : Cmd) (S : Session) (t : State) : Prop where
  /-- Not accepted yet. -/
  | offered (hs : t.seq = .idle) (hc : t.cmds.head? = some w) (hcfg : t.cfg = o.cfg) (hsess : t.sess = o.sess)
      (hu : Unanswered o [] t)
  | issued (hs : t.seq = .issue) (hcur : t.cur = w) (hsess : t.sess = S) (hu : Unanswered o [] t)
  | written (hs : t.seq = .configWritten ∨ t.seq = .settling) (hcur : t.cur = w) (hg : t.resg = S.gain)
      (hu : Unanswered o [.write 1 (Codec.encode S)] t)
  | read (hi lo : Byte) (hs : t.seq = .resultReady) (hcur : t.cur = w) (hg : t.resg = S.gain) (hres : t.res = hi ++ lo)
      (hu : Unanswered o [.write 1 (Codec.encode S), .readConv hi lo] t)
  /-- A primitive of the acquisition never completes: it will not answer. -/
  | stuck (hs : t.seq ≠ .idle) (hst : t.stalled = true) (hrsps : t.rsps = o.rsps)

/-- The acquisition has answered, with the gain of `S` and the code it read, after its two accesses. -/
def Acquired (o : State) (S : Session) (t : State) : Prop :=
  ∃ hi lo : Byte, o.rsps ++ [rspWord .ok (resultWord S.gain (hi ++ lo))] <+: t.rsps ∧
    (o.busCut = false →
      o.bus ++ [.write 1 (Codec.encode S), .readConv hi lo].flatMap (Access.events o.addr) <+: t.bus)

theorem Acquiring.rsps {o t : State} {w : Cmd} {S : Session} (h : Acquiring o w S t) : t.rsps = o.rsps := by
  cases h with
  | offered _ _ _ _ hu | issued _ _ _ hu | written _ _ _ hu | read _ _ _ _ _ _ hu => exact hu.rsps
  | stuck _ _ hrsps => exact hrsps

/-- The acquisition is where it was when only the timer, the strap and the schedule change and commands are offered
behind it. -/
theorem Acquiring.withPorts {o s : State} {w : Cmd} {S : Session} (h : Acquiring o w S s) (tmr : BitVec 7)
    (level : BitVec 2) (more : List Cmd) (x : List Move) :
    Acquiring o w S { s with tmr := tmr, addrSel := level, cmds := s.cmds ++ more, sched := x } := by
  cases h with
  | offered hs hc hcfg hsess hu =>
    exact .offered hs (by simp [List.head?_append, hc]) hcfg hsess ⟨hu.rsps, hu.bus⟩
  | issued hs hcur hsess hu => exact .issued hs hcur hsess ⟨hu.rsps, hu.bus⟩
  | written hs hcur hg hu => exact .written hs hcur hg ⟨hu.rsps, hu.bus⟩
  | read hi lo hs hcur hg hres hu => exact .read hi lo hs hcur hg hres ⟨hu.rsps, hu.bus⟩
  | stuck hs hst hrsps => exact .stuck hs hst hrsps

theorem Acquired.of_prefix {o s t : State} {S : Session} (h : Acquired o S s) (hrsps : s.rsps <+: t.rsps)
    (hbus : s.bus <+: t.bus) : Acquired o S t := by
  obtain ⟨hi, lo, hr, hb⟩ := h
  exact ⟨hi, lo, hr.trans hrsps, fun hc => (hb hc).trans hbus⟩

/-- The micro-step of an acquisition in each phase of its path. -/
def acquireOp : Phase → Option MicroOp
  | .idle => none
  | .issue => some .writeConfig
  | .configWritten => some .settle
  | .settling => some .readConv
  | .resultReady => some .respondResult

theorem acquireOp_of_path {i : Instr} (hk : IsAcquisition i) {n : Nat} {p : Phase} (h : (path i)[n]? = some p) :
    (program i)[n]? = acquireOp p := by
  rw [path_acquisition hk] at h
  rw [program_acquisition hk]
  obtain _ | _ | _ | _ | n := n <;> cases h <;> rfl

/-- A micro-step of the acquisition brings it to its next stage. -/
theorem Acquiring.micro {o s : State} {w : Cmd} {S : Session} {i j : Instr} {op : MicroOp} (h : Acquiring o w S s)
    (hd : decode w = .instr i) (hk : IsAcquisition i) (hin : s.InStep) (haddr : s.addr = o.addr)
    (hcut : s.busCut = o.busCut) (hs : s.seq ≠ .idle) (hst : s.stalled = false) (hj : decode s.cur = .instr j)
    (hop : (program j)[s.upc.toNat]? = some op) : Acquiring o w S (op.run s) ∨ Acquired o S (op.run s) := by
  have hphase (hcur : s.cur = w) : acquireOp s.seq = some op := by
    obtain rfl : j = i := by simpa [hcur, hd] using hj.symm
    rw [← acquireOp_of_path hk (hin.path_get hs hj), hop]
  cases h with
  | offered hidle => exact absurd hidle hs
  | stuck _ hst' => simp [hst] at hst'
  | issued hs hcur hsess hu =>
    obtain rfl : MicroOp.writeConfig = op := by simpa [hs, acquireOp] using hphase hcur
    refine .inl (.written (.inl rfl) hcur (congrArg Session.gain hsess) ?_)
    rw [← hsess]
    exact hu.performs haddr hcut (performs_writeConfig s)
  | written hs hcur hg hu =>
    obtain hs | hs := hs
    · obtain rfl : MicroOp.settle = op := by simpa [hs, acquireOp] using hphase hcur
      exact .inl (.written (.inr rfl) hcur hg ⟨hu.rsps, hu.bus⟩)
    · obtain rfl : MicroOp.readConv = op := by simpa [hs, acquireOp] using hphase hcur
      obtain ⟨hi, lo, hp, _, hres⟩ := performs_readConv s
      exact .inl (.read hi lo rfl ((readConv_cur s).trans hcur) ((readConv_resg s).trans hg) hres
        (hu.performs haddr hcut hp))
  | read hi lo hs hcur hg hres hu =>
    obtain rfl : MicroOp.respondResult = op := by simpa [hs, acquireOp] using hphase hcur
    refine .inr ⟨hi, lo, ?_, fun hc => ?_⟩
    · rw [← hu.rsps, ← hg, ← hres]
      exact List.prefix_rfl
    · rw [← hu.bus.1 hc]
      exact List.prefix_rfl

/-- In IDLE the offered acquisition is accepted, and nothing else. -/
theorem Acquiring.accept {o s : State} {w w' : Cmd} {i : Instr} {rest : List Cmd}
    (h : Acquiring o w (sessionAfter o.cfg i o.sess) s) (hk : IsAcquisition i) (hr : refused i = false)
    (hs : s.seq = .idle) (hc : s.cmds = w' :: rest) :
    w' = w ∧ Acquiring o w (sessionAfter o.cfg i o.sess) (acceptOf i (latch w rest s)) := by
  cases h with
  | offered _ hw hcfg hsess hu =>
    refine ⟨by simpa [hc] using hw, ?_⟩
    rw [acceptOf_acquisition hk hr]
    exact .issued rfl rfl (by rw [issue_sess, latch_cfg, latch_sess, hcfg, hsess]) ⟨hu.rsps, hu.bus⟩
  | issued hs' | read _ _ hs' | written hs' => simp [hs] at hs'
  | stuck hs' => exact absurd hs hs'

theorem Acquiring.sequencer {o s t : State} {w : Cmd} {i : Instr} (h : Acquiring o w (sessionAfter o.cfg i o.sess) s)
    (hd : decode w = .instr i) (hk : IsAcquisition i) (hr : refused i = false) (hin : s.InStep)
    (haddr : s.addr = o.addr) (hcut : s.busCut = o.busCut) (ht : SequencerStep s t) :
    Acquiring o w (sessionAfter o.cfg i o.sess) t ∨ Acquired o (sessionAfter o.cfg i o.sess) t := by
  cases ht with
  | wait | stuck | settle => exact .inl h
  | accept w' rest j hs hc hj =>
    obtain ⟨rfl, hacc⟩ := h.accept hk hr hs hc
    obtain rfl : j = i := by simpa [hd] using hj.symm
    exact .inl hacc
  | reserved w' rest op hs hc hj =>
    obtain ⟨rfl, _⟩ := h.accept hk hr hs hc
    simp [hd] at hj
  | micro j op hs hst hj _ hop => exact h.micro hd hk hin haddr hcut hs hst hj hop

/-- A stall stops the acquisition, or there is nothing to stall. -/
theorem Acquiring.stall {o s : State} {w : Cmd} {S : Session} (h : Acquiring o w S s) (k : Nat) :
    Acquiring o w S (stall k s) := by
  obtain ⟨_, he⟩ | ⟨tr, u, hp, he⟩ := stall_cases k s
  · rwa [he]
  · obtain ⟨hs, _⟩ := pendingTransaction_some hp
    exact .stuck (by rwa [stall_seq]) (by rw [he]) ((stall_rsps k s).trans h.rsps)

/-- In `t` the acquisition offered in `o` is on its way or has answered; ADDR and the mark of a cut are as they were. -/
structure AcquisitionRun (o : State) (w : Cmd) (S : Session) (t : State) : Prop where
  addr : t.addr = o.addr
  busCut : t.busCut = o.busCut
  stage : Acquiring o w S t ∨ Acquired o S t

/-- Every move but a reset keeps the acquisition on its way (42_single_shot.md R120). -/
theorem AcquisitionRun.move {o s t : State} {w : Cmd} {i : Instr} {m : Move}
    (h : AcquisitionRun o w (sessionAfter o.cfg i o.sess) s) (hd : decode w = .instr i) (hk : IsAcquisition i)
    (hr : refused i = false) (hm : ∀ n, m ≠ .reset n) (hin : s.InStep) (ht : MoveMade m s t) :
    AcquisitionRun o w (sessionAfter o.cfg i o.sess) t := by
  obtain ⟨haddr, hcut, hstage⟩ := h
  refine ⟨(ht.addr hm).trans haddr, (ht.busCut hm).trans hcut, ?_⟩
  obtain hacq | hdone := hstage
  case inr => exact .inr (hdone.of_prefix (ht.rsps_prefix hm) ht.bus_prefix)
  cases ht with
  | sequencer t _ hq => exact hacq.sequencer hd hk hr hin haddr hcut hq
  | tick =>
    obtain ⟨x, he⟩ := tick_frame s
    rw [he]
    simpa using Or.inl (hacq.withPorts x s.addrSel [] s.sched)
  | reset n h => exact absurd h (hm n)
  | stall k => exact .inl (hacq.stall k)
  | strap level => simpa using Or.inl (hacq.withPorts s.tmr level [] s.sched)
  | host w' => exact .inl (hacq.withPorts s.tmr s.addrSel [w'] s.sched)

theorem AcquisitionRun.popped {o s : State} {w : Cmd} {S : Session} (h : AcquisitionRun o w S s) (x : List Move) :
    AcquisitionRun o w S { s with sched := x } := by
  obtain ⟨haddr, hcut, hacq | hdone⟩ := h
  · exact ⟨haddr, hcut, .inl (by simpa using hacq.withPorts s.tmr s.addrSel [] x)⟩
  · exact ⟨haddr, hcut, .inr hdone⟩

theorem acquisitionRun_refl {s : State} {w : Cmd} {rest : List Cmd} (S : Session) (hs : s.seq = .idle)
    (hc : s.cmds = w :: rest) : AcquisitionRun s w S s :=
  ⟨rfl, rfl, .inl (.offered hs (by rw [hc, List.head?_cons]) rfl rfl ⟨rfl, shows_nil s⟩)⟩

/-- The first response after `o` is the acquisition's. -/
theorem AcquisitionRun.first_response {o t : State} {w : Cmd} {S : Session} {a : Rsp} (h : AcquisitionRun o w S t)
    (ha : t.rsps[o.rsps.length]? = some a) :
    ∃ hi lo : Byte, a = rspWord .ok (resultWord S.gain (hi ++ lo)) ∧
      (o.busCut = false →
        [.write 1 (Codec.encode S), .readConv hi lo].flatMap (Access.events o.addr) <+: t.bus.drop o.bus.length) := by
  obtain ⟨_, _, hacq | ⟨hi, lo, ⟨l, hl⟩, hb⟩⟩ := h
  · simp [hacq.rsps] at ha
  · refine ⟨hi, lo, by simpa [← hl] using ha.symm, fun hc => ?_⟩
    obtain ⟨fs, hfs⟩ := hb hc
    exact ⟨fs, by rw [← hfs, List.append_assoc, List.drop_left]⟩

end Sys2Proof.Machine

/-! ### The statements of 42_single_shot.md -/

namespace Sys2Proof.Proofs

open Sys2Proof Sys2Proof.Machine

/-- Settles O25: the accept, and for each phase the micro-step that UPC names. -/
theorem acqMicroSequence : Obligations.AcqMicroSequence := by
  refine ⟨fun _ => decode_of_opcode, fun s => ⟨fun hs => ?accept, fun hs hu => ?write, fun hs hu => ?settle,
    fun hs ht => exec_waiting .acq ⟨hs, ht⟩, fun hs hu ht => ?read, fun hs hu => ?answer⟩⟩
  case accept => exact exec_idle .acq hs
  case write => exact ⟨_, exec_untimed_op hs (by decide) (by rw [hu]; rfl), writeConfig_writes s⟩
  case settle => exact ⟨_, exec_untimed_op hs (by decide) (by rw [hu]; rfl), settle_settles s⟩
  case read =>
    have hs' : s.seq ≠ .idle := by simp [hs]
    exact ⟨_, exec_busy_op .acq hs' (fun hw => hw.2 ht) (by rw [hu]; rfl), readConv_reads s⟩
  case answer => exact ⟨_, exec_respondResult hs (by rw [hu]; rfl), respond_answers .ok (resultValue s) s⟩

/-- Settles O26: a channel in the table is accepted, one past it refused, and the rest is ACQ's. -/
theorem rdchAcceptsAChannel : Obligations.RdchAcceptsAChannel := by
  refine ⟨fun _ => decode_of_opcode, fun s c => ⟨fun hs m hm => ?accept, fun hs hc => ?refuse, fun hs => ?busy⟩⟩
  case accept =>
    rw [exec_idle _ hs]
    simp only [acceptOf, channelMux, hm]
    rfl
  case refuse => exact exec_answers hs (acceptOf_refused (refused_of_lt rfl rfl rfl hc) s)
  case busy => exact exec_acquisition_busy (.inr ⟨c, .inl rfl⟩) hs

/-- Settles O27: a pair in the table is accepted, one past it refused, and the rest is ACQ's. -/
theorem rddfAcceptsAPair : Obligations.RddfAcceptsAPair := by
  refine ⟨fun _ => decode_of_opcode, fun s p => ⟨fun hs m hm => ?accept, fun hs hp => ?refuse, fun hs => ?busy⟩⟩
  case accept =>
    rw [exec_idle _ hs]
    simp only [acceptOf, Codec.diffmux, hm]
    rfl
  case refuse => exact exec_answers hs (acceptOf_refused (refused_of_lt rfl rfl rfl hp) s)
  case busy => exact exec_acquisition_busy (.inr ⟨p, .inr rfl⟩) hs

/-- Settles O28, by the tick's two cases and the wait of every command. -/
theorem tickCountsOnlyInSettling : Obligations.TickCountsOnlyInSettling := by
  refine ⟨fun s r hsc => ⟨fun hs ht => step_tick_waiting hsc ⟨hs, ht⟩, fun hw => ?idle_tick⟩,
    fun s i hs ht => ⟨exec_waiting i ⟨hs, ht⟩, fun hm hd => step_sequencer_waiting hm ⟨hs, ht⟩ hd⟩⟩
  case idle_tick =>
    rw [step_of_sched_cons hsc, applyMove, tick_of_not_waiting (s := { s with sched := r }) hw]

/-- Settles O29, by induction on the schedule: a tick counts down, a sequencer move does nothing while the timer runs. -/
theorem settlingOutlastsEveryShorterRunOfTicks : Obligations.SettlingOutlastsEveryShorterRunOfTicks :=
  fun es r _ hs ⟨_, hd⟩ hsc hes hlt => run_waiting es r hs hd hsc hes hlt

/-- Settles O30: the stages of the acquisition are kept by every move that is no reset, and its answer is the first
response. -/
theorem acquisitionGainTagIsTheGainAtAccept : Obligations.AcquisitionGainTagIsTheGainAtAccept := by
  intro es r s w rest i hs hc hd hacq hsc hes
  obtain ⟨hk, hr⟩ := acquisition_of_inRange hacq
  obtain ⟨t, hrun, hsched, ht⟩ := run_schedule es r hsc (.inl hs)
    (acquisitionRun_refl (sessionAfter s.cfg i s.sess) hs hc) (fun _ x h => h.popped x)
    fun m hm u v hin h hmade => h.move hd hk hr (hes m hm) hin hmade
  refine ⟨t, hrun, hsched, fun a ha => ?_⟩
  have hgain := sessionAfter_gain_of_acquisition hk s.cfg s.sess
  obtain ⟨hi, lo, hword, hbus⟩ := ht.first_response ha
  rw [hgain] at hword
  exact ⟨hi, lo, hword, by rw [Codec.decode_encode, hgain], by simpa using hbus⟩

/-- Settles O41: only an acquisition's accept writes the flag, and it sets it. -/
theorem startFlagIsClearedOnlyByReset : Obligations.StartFlagIsClearedOnlyByReset := by
  intro s t hr h hos
  obtain hkeep | hset := (step_inv h).os (not_resetNext_iff.1 hr)
  · exact hkeep.trans hos
  · exact hset

/-- Settles O56: what is left of the program ends in a response, and the bounds of its micro-steps, the wait counted
with `Settle`, sum to at most 130. -/
theorem commandInFlightReturnsToIdle : Obligations.CommandInFlightReturnsToIdle :=
  fun _ hs hst hin _ hsc => hin.returnsWithin hs hst hsc

/-- Settles O58: the whole command as the tables have it, the tables' row being an acquisition's. -/
theorem acquisitionInTheDefaultOrder : Obligations.AcquisitionInTheDefaultOrder := by
  intro s w rest i hs hst hsc hc hd hacq
  obtain ⟨hk, hr⟩ := acquisition_of_inRange hacq
  obtain ⟨_, hsteps, _, hacc, hval⟩ := tables_acquisition hk hr s.cfg s.sess
  obtain ⟨hi, lo, t, hrun, _, _, hseq, _, _, hrsps, _, hresg, _⟩ :=
    everyCommandRunsToItsResponse s w rest i hs hst hsc hc hd
  have hwrite : hasConfigWrite s.cfg i s.sess = true := by rw [hasConfigWrite_eq _ _ _ hi lo, hacc]; rfl
  rw [hwrite, if_pos rfl, sessionAfter_gain_of_acquisition hk] at hresg
  rw [rangeOf_acquisition hk hr, hval, hresg] at hrsps
  have hsum (d : Nat) : 4 + d + 1 = 5 + d := by omega
  rw [hsteps, hsum] at hrun
  exact ⟨t, hrun, hseq, hresg, hrsps⟩

end Sys2Proof.Proofs

/-! SUPPORT. Who moves MODE: a micro-step or a stall leaves the session or sets MODE_CONT, and so does every accept but an
acquisition's. -/

namespace Sys2Proof.Machine

theorem MicroOp.run_sess (op : MicroOp) (s : State) :
    (op.run s).sess = s.sess ∨ (op.run s).sess = (setCont s).sess := by
  cases op with
  | contWriteConfig => exact .inr rfl
  | readConv => exact .inl (readConv_sess s)
  | writeConfig | writeReg | settle | respond | respondResult => exact .inl rfl

theorem stall_sess (k : Nat) (s : State) : (stall k s).sess = s.sess ∨ (stall k s).sess = (setCont s).sess := by
  obtain ⟨_, he⟩ | ⟨tr, u, hp, he⟩ := stall_cases k s
  · exact .inl (by rw [he])
  · obtain ⟨_, _, _, _, op, _, _, htr⟩ := pendingTransaction_some hp
    obtain ⟨_, _, _, hb⟩ := tr.begin_frame (tr.stallAt k) u
    rw [he, hb]
    obtain rfl | ⟨_, rfl⟩ := MicroOp.transaction_state htr
    · exact .inl rfl
    · exact .inr rfl

/-- No command but an acquisition, CONT or a comparator start writes MODE. -/
theorem WritesFields.mode {i : Instr} {S S' : Session} (h : WritesFields i S S') (hacq : ¬ IsAcquisition i)
    (hcont : i ≠ .cont) (hcmp : ¬ IsComparator i) : S'.mode = S.mode := by
  cases i with
  | acq => exact absurd (.inl rfl) hacq
  | rdch c => exact absurd (.inr ⟨c, .inl rfl⟩) hacq
  | rddf c => exact absurd (.inr ⟨c, .inr rfl⟩) hacq
  | cont => exact absurd rfl hcont
  | cmpch t a => exact absurd ⟨t, a, 0, .inl rfl⟩ hcmp
  | cmpchl t a b => exact absurd ⟨t, a, b, .inr (.inl rfl)⟩ hcmp
  | cmpdf t a => exact absurd ⟨t, a, 0, .inr (.inr (.inl rfl))⟩ hcmp
  | cmpdfl t a b => exact absurd ⟨t, a, b, .inr (.inr (.inr rfl))⟩ hcmp
  | _ => rw [show S' = _ from h]

theorem acceptComparator_mode (target : Option (BitVec 3)) (s : State) :
    (acceptComparator target s).sess.mode = s.sess.mode := by
  cases target <;> rfl

/-- An accept that is no acquisition's leaves MODE, or sets MODE_CONT as CONT's does. -/
theorem acceptOf_mode {i : Instr} (hk : ¬ IsAcquisition i) (s : State) :
    (acceptOf i s).sess.mode = s.sess.mode ∨ (acceptOf i s).sess.mode = s.cfg.modeCont := by
  by_cases hcont : i = .cont
  · subst hcont
    exact .inr rfl
  by_cases hcmp : IsComparator i
  · obtain ⟨t, a, b, rfl | rfl | rfl | rfl⟩ := hcmp <;> exact .inl (acceptComparator_mode _ s)
  · exact .inl ((acceptOf_writesFields i s).mode hk hcont hcmp)

/-- A move that is no reset leaves MODE or sets MODE_CONT, unless it accepts an acquisition. -/
theorem MoveMade.mode {m : Move} {s t : State} (h : MoveMade m s t) (hm : ∀ n, m ≠ .reset n) :
    (t.sess.mode = s.sess.mode ∨ t.sess.mode = s.cfg.modeCont) ∨
      (s.seq = .idle ∧ ∃ i, s.acting = some i ∧ IsAcquisition i) := by
  cases h with
  | sequencer t _ ht =>
    cases ht with
    | wait | stuck | settle | reserved => exact .inl (.inl rfl)
    | accept w rest i hs hc hd =>
      by_cases hk : IsAcquisition i
      · exact .inr ⟨hs, i, acting_of_offered hs hc hd, hk⟩
      · exact .inl (acceptOf_mode hk (latch w rest s))
    | micro i op => exact .inl ((op.run_sess s).imp (congrArg Session.mode) (congrArg Session.mode))
  | tick => exact .inl (.inl (by rw [tick_sess]))
  | reset n h => exact absurd h (hm n)
  | stall k => exact .inl ((stall_sess k s).imp (congrArg Session.mode) (congrArg Session.mode))
  | strap | host => exact .inl (.inl rfl)

end Sys2Proof.Machine

/-! ### The statements of 43_continuous.md -/

namespace Sys2Proof.Proofs

open Sys2Proof Sys2Proof.Machine

/-- Settles O31: the accept, and for each phase the micro-step that UPC names. -/
theorem contMicroSequence : Obligations.ContMicroSequence := by
  refine ⟨fun _ => decode_of_opcode, fun s => ⟨fun hs => ?accept, fun hs hu => ?write, fun hs hu => ?answer⟩⟩
  case accept => exact exec_idle .cont hs
  case write => exact ⟨_, exec_untimed_op hs (by decide) (by rw [hu]; rfl), writeConfig_writes s⟩
  case answer =>
    exact ⟨_, exec_untimed_op (op := .respond .ok 0) hs (by decide) (by rw [hu]; rfl), respond_answers .ok 0 s⟩

/-- Settles O32: the accept, and for each phase the micro-step that UPC names. -/
theorem getlastMicroSequence : Obligations.GetlastMicroSequence := by
  refine ⟨fun _ => decode_of_opcode, fun s => ⟨fun hs => ?accept, fun hs hu => ?read, fun hs hu => ?answer⟩⟩
  case accept => exact exec_idle .getlast hs
  case read => exact ⟨_, exec_untimed_op hs (by decide) (by rw [hu]; rfl), readConv_reads s⟩
  case answer => exact ⟨_, exec_respondResult hs (by rw [hu]; rfl), respond_answers .ok (resultValue s) s⟩

/-- Settles O42: every move that is no reset and accepts no acquisition leaves MODE or sets it to MODE_CONT. -/
theorem continuousModeIsLeftOnlyByAcquisitionOrReset : Obligations.ContinuousModeIsLeftOnlyByAcquisitionOrReset := by
  intro s t h hmode hleft
  cases hr : s.resetNext with
  | true => exact .inl rfl
  | false =>
    obtain (hkeep | hset) | ⟨hs, i, hact, hk⟩ := (step_inv h).mode (not_resetNext_iff.1 hr)
    · exact absurd (hkeep.trans hmode) hleft
    · exact absurd hset hleft
    · obtain rfl | ⟨c, rfl | rfl⟩ := hk
      · exact .inr ⟨hs, 0, .inl hact⟩
      · exact .inr ⟨hs, c, .inr (.inl hact)⟩
      · exact .inr ⟨hs, c, .inr (.inr hact)⟩

end Sys2Proof.Proofs

/-! SUPPORT. The comparator (44_comparator.md): the low threshold as a natural number, and the one micro-sequence that
the four starts share. -/

namespace Sys2Proof.Machine

/-- The clamped subtraction is subtraction on natural numbers (44_comparator.md R135). -/
theorem toNat_lowThreshold (high : Word) : (lowThreshold high).toNat = high.toNat - 5 := by
  have hult : high.ult lowOffset = true ↔ high.toNat < 5 := BitVec.ult_iff_lt
  rw [lowThreshold]
  split
  · next h =>
    have hlt : high.toNat < 5 := hult.1 h
    exact (Nat.sub_eq_zero_of_le hlt.le).symm
  · next h =>
    have hle : lowOffset ≤ high := Nat.le_of_not_lt (mt hult.2 h)
    exact BitVec.toNat_sub_of_le hle

/-- A command that is accepted as a comparator start and runs its program is one (44_comparator.md R136); the four
differ in the multiplexer table and in where the low threshold is from. -/
theorem comparatorStart {i : Instr} {t : Byte} {target : Config → Option (BitVec 3)} {low high : Word}
    (ht : i.operandT = some t) (hmax : i.maxT = some 3) (hf : fallsBack i = false)
    (hacc : ∀ s, acceptOf i s = acceptComparator (target s.cfg) s) (hprog : program i = comparatorProgram low high) :
    ComparatorStart i t target low high := by
  intro s
  refine ⟨fun hs hlt => ?refuse, fun hs m hm => ?accept, fun hs hu => ?low, fun hs hu => ?high,
    fun hs hu => ?config, fun hs hu => ?answer⟩
  case refuse => exact exec_answers hs (acceptOf_refused (refused_of_lt ht hmax hf hlt) s)
  case accept =>
    rw [exec_idle i hs, hacc, hm]
    rfl
  case low => exact ⟨_, exec_untimed_op hs (by decide) (by rw [hprog, hu]; rfl), writeReg_writes ptrLo low s⟩
  case high => exact ⟨_, exec_untimed_op hs (by decide) (by rw [hprog, hu]; rfl), writeReg_writes ptrHi high s⟩
  case config => exact ⟨_, exec_untimed_op hs (by decide) (by rw [hprog, hu]; rfl), contWriteConfig_writes s⟩
  case answer =>
    have hop : (program i)[s.upc.toNat]? = some (.respond .ok 0) := by rw [hprog, hu]; rfl
    exact ⟨_, exec_untimed_op hs (by decide) hop, respond_answers .ok 0 s⟩

/-- In ISSUE a conversion read that comes first is performed, whatever command it belongs to. -/
theorem exec_issue_readConv {i : Instr} {s : State} (hs : s.seq = .issue) (hu : s.upc = 0)
    (hprog : (program i)[0]? = some .readConv) : exec i s = .next (MicroOp.readConv.run s) :=
  exec_untimed_op hs (by decide) (by rw [hu]; exact hprog)

end Sys2Proof.Machine

/-! ### The statements of 44_comparator.md -/

namespace Sys2Proof.Proofs

open Sys2Proof Sys2Proof.Machine

/-- Settles O33: the four starts by their common micro-sequence, each with its accept and its thresholds. -/
theorem comparatorStartMicroSequences : Obligations.ComparatorStartMicroSequences := by
  refine ⟨fun t a b => ⟨?_, ?_, ?_, ?_⟩,
    fun w => ⟨decode_of_opcode, decode_of_opcode, decode_of_opcode, decode_of_opcode⟩⟩
  all_goals exact comparatorStart rfl rfl rfl (fun _ => rfl) rfl

/-- Settles O34: the read is GETLAST's, and what follows it answers 0. -/
theorem clrlatchMicroSequence : Obligations.ClrlatchMicroSequence := by
  refine ⟨fun _ => decode_of_opcode, fun s => ⟨fun hs => ?accept, fun hs hu => ?read, fun hs hu => ?answer⟩⟩
  case accept => exact exec_idle .clrlatch hs
  case read =>
    have hread : exec .clrlatch s = .next (MicroOp.readConv.run s) := exec_issue_readConv hs hu rfl
    exact ⟨hread.trans (exec_issue_readConv hs hu rfl).symm, _, hread, readConv_reads s⟩
  case answer =>
    exact ⟨_, exec_untimed_op (op := .respond .ok 0) hs (by decide) (by rw [hu]; rfl), respond_answers .ok 0 s⟩

/-- Settles O14, from subtraction on natural numbers. -/
theorem lowThresholdIsClampedSubtraction : Obligations.LowThresholdIsClampedSubtraction := by
  intro high
  have hsub := toNat_lowThreshold high
  refine ⟨fun hlt => BitVec.eq_of_toNat_eq ?below, fun hle => ?above⟩
  case below => exact hsub.trans (Nat.sub_eq_zero_of_le hlt.le)
  case above => rw [hsub, Nat.sub_add_cancel hle]

end Sys2Proof.Proofs

/-! SUPPORT. That no run stops (60_exceptions.md R151): what every step answers for, every run answers for. -/

namespace Sys2Proof.Machine

/-- Where each step from `P` answers a next state that meets `P`, so does every run. -/
theorem run_next_of_step_next {P : State → Prop} (hstep : ∀ s, P s → ∃ t, step s = .next t ∧ P t) (n : Nat)
    {s : State} (hs : P s) : ∃ t, Host.Core.run Sys2Proof.core n s = .next t ∧ P t := by
  induction n generalizing s with
  | zero => exact ⟨s, rfl, hs⟩
  | succ n ih =>
    obtain ⟨u, hu, hPu⟩ := hstep s hs
    rw [run_succ hu]
    exact ih hPu

/-- Taking the move off the schedule leaves SEQ, CUR and UPC as they are, and every move can be made in step. -/
theorem State.InStep.step_next {s : State} (h : s.InStep) : ∃ t, step s = .next t ∧ t.InStep := by
  have hpop : State.InStep { s with sched := s.sched.tail } := h
  obtain ⟨t, ht⟩ := hpop.applyMove_next (nextMove s)
  exact ⟨t, ht, (step_inv ht).inStep hpop⟩

end Sys2Proof.Machine

/-! ### The statements of 60_exceptions.md -/

namespace Sys2Proof.Proofs

open Sys2Proof Sys2Proof.Machine

/-- Settles O54: a step from a state in step answers a state in step, and so along every run. -/
theorem noStepStopsTheMachine : Obligations.NoStepStopsTheMachine :=
  fun n _ hs => run_next_of_step_next (fun _ h => h.step_next) n hs

end Sys2Proof.Proofs

/-! SUPPORT. Resets in a run (70_reset_and_hazards.md): what a reset makes of the transaction it meets, and the trace
after one has been cut. -/

namespace Sys2Proof.Machine

/-! ### The transaction a reset meets -/

/-- A reset meets a stalled transaction, or one of which nothing has been issued, or it cuts the pending one. -/
theorem cutPending_cases (n : Nat) (s : State) :
    (s.stalled = true ∧ cutPending n s = { s with busCut := true }) ∨
    ((n = 0 ∨ pendingTransaction s = none) ∧ cutPending n s = s) ∨
    (0 < n ∧ ∃ tr u, pendingTransaction s = some (tr, u) ∧
      cutPending n s = { tr.begin (tr.cutAt n) u with busCut := true }) := by
  unfold cutPending
  split
  · next hst => exact .inl ⟨hst, rfl⟩
  · split
    · next hp => exact .inr (.inl ⟨.inr hp, rfl⟩)
    · next tr u hp =>
      split
      · next hn => exact .inr (.inl ⟨.inl hn, rfl⟩)
      · next hn => exact .inr (.inr ⟨Nat.pos_of_ne_zero hn, tr, u, hp, rfl⟩)

/-- The registers whose reset values come from the parameters and the strap, whatever transaction is cut (R31). -/
theorem applyReset_cutPending_registers (n : Nat) (s : State) :
    some (applyReset (cutPending n s)).addr = s.cfg.addrTable[s.addrSel.toNat]? ∧
      (applyReset (cutPending n s)).sess = Codec.decode s.cfg.defaultWord ∧
      (applyReset (cutPending n s)).resg = (Codec.decode s.cfg.defaultWord).gain := by
  obtain ⟨_, _, _, _, _, h⟩ := cutPending_frame n s
  rw [h]
  exact ⟨(Vector.getElem?_eq_getElem s.addrSel.isLt).symm, rfl, rfl⟩

theorem cutPending_rsps (n : Nat) (s : State) : (cutPending n s).rsps = s.rsps := by
  obtain ⟨_, _, _, _, _, h⟩ := cutPending_frame n s
  rw [h]

theorem cutPending_sched (n : Nat) (s : State) : (cutPending n s).sched = s.sched := by
  obtain ⟨_, _, _, _, _, h⟩ := cutPending_frame n s
  rw [h]

/-- Where no primitive of a transaction has gone out, a reset adds nothing to the trace. -/
theorem cutPending_bus_of_none_issued {n : Nat} {s : State} (h : n = 0 ∨ s.seq = .idle) :
    (cutPending n s).bus = s.bus := by
  obtain ⟨_, he⟩ | ⟨_, he⟩ | ⟨hn, tr, u, hp, _⟩ := cutPending_cases n s
  · rw [he]
  · rw [he]
  · obtain h0 | hs := h
    · exact absurd h0 hn.ne'
    · exact absurd hs (pendingTransaction_some hp).1

/-! ### How much of it a cut leaves -/

/-- A cut leaves at most all primitives but the last (log 10). -/
theorem Transaction.cutAt_eq (n : Nat) (tr : Transaction) (s : State) :
    tr.cutAt n = min n ((tr.events s).length - 1) := by
  cases tr <;> rfl

/-- A cut that leaves primitives on the trace leaves as many as some stall does. -/
theorem Transaction.cutAt_eq_stallAt {n : Nat} (hn : 0 < n) (tr : Transaction) : ∃ k, tr.cutAt n = tr.stallAt k := by
  cases tr with
  | write => exact ⟨min n 4 - 1, by simp only [cutAt, stallAt]; omega⟩
  | read =>
    by_cases hle : n ≤ 4
    · exact ⟨n - 1, by simp only [cutAt, stallAt]; split <;> omega⟩
    · exact ⟨n, by simp only [cutAt, stallAt]; split <;> omega⟩

/-- A reset that cuts a transaction before any other cut leaves its first primitives on the trace. -/
theorem Transaction.begin_cutAt_bus {n : Nat} (hn : 0 < n) (tr : Transaction) {s : State} (hc : s.busCut = false) :
    (tr.begin (tr.cutAt n) s).bus = s.bus ++ (tr.events s).take (min n ((tr.events s).length - 1)) := by
  rw [← tr.cutAt_eq n s]
  obtain ⟨k, hk⟩ := tr.cutAt_eq_stallAt hn
  rw [hk, tr.begin_stallAt_bus k hc]

/-! ### The trace after a cut -/

/-- `t` shows what `s` shows, or a free value after it (log 10). -/
def AddsFreeTrace (s t : State) : Prop := t.bus = s.bus ∨ ∃ k, t.bus = s.bus ++ Config.freeTrace k

/-- Once a transaction has been cut, primitives going out show as a free value. -/
theorem emit_bus_of_cut {s : State} (hc : s.busCut = true) (es : List BusEvent) :
    (s.emit es).bus = s.bus ++ Config.freeTrace s.freeIdx := by
  rw [emit_bus, shown_of_cut hc]

theorem Transaction.begin_addsFreeTrace (n : Nat) (tr : Transaction) {s : State} (hc : s.busCut = true) :
    AddsFreeTrace s (tr.begin n s) := by
  cases tr with
  | write p v => exact .inr ⟨_, emit_bus_of_cut hc _⟩
  | read p =>
    simp only [Transaction.begin]
    split
    · exact .inr ⟨_, emit_bus_of_cut hc _⟩
    · refine .inr ⟨s.rxDone.freeIdx, ?_⟩
      rw [emit_bus_of_cut ((rxDone_busCut s).trans hc), rxDone_bus]

/-- Whatever a micro-step's transaction has begun with, what goes out of it shows as a free value. -/
theorem MicroOp.transaction_begin_addsFreeTrace (n : Nat) {op : MicroOp} {s u : State} {tr : Transaction}
    (h : op.transaction s = some (tr, u)) (hc : s.busCut = true) : AddsFreeTrace s (tr.begin n u) := by
  obtain ⟨_, hbus, hcut⟩ := MicroOp.transaction_addr h
  have hfree := tr.begin_addsFreeTrace n (hcut.trans hc)
  rwa [AddsFreeTrace, hbus] at hfree

theorem MicroOp.run_addsFreeTrace (op : MicroOp) {s : State} (hc : s.busCut = true) : AddsFreeTrace s (op.run s) := by
  cases op with
  | writeConfig | contWriteConfig | writeReg => exact .inr ⟨_, emit_bus_of_cut hc _⟩
  | readConv =>
    refine .inr ⟨s.rxDone.rxDone.freeIdx, (emit_bus_of_cut ?_ _).trans (by rw [rxDone_bus, rxDone_bus])⟩
    rw [rxDone_busCut, rxDone_busCut, hc]
  | settle | respond | respondResult => exact .inl rfl

theorem cutPending_addsFreeTrace (n : Nat) {s : State} (hc : s.busCut = true) :
    (cutPending n s).busCut = true ∧ AddsFreeTrace s (cutPending n s) := by
  obtain ⟨_, he⟩ | ⟨_, he⟩ | ⟨_, tr, u, hp, he⟩ := cutPending_cases n s
  · exact ⟨by rw [he], .inl (by rw [he])⟩
  · exact ⟨by rw [he, hc], .inl (by rw [he])⟩
  · obtain ⟨_, _, _, i, op, _, _, htr⟩ := pendingTransaction_some hp
    rw [he]
    exact ⟨rfl, op.transaction_begin_addsFreeTrace (tr.cutAt n) htr hc⟩

theorem MoveMade.eq_of_reset {n : Nat} {s t : State} (h : MoveMade (.reset n) s t) :
    t = applyReset (cutPending n s) := by
  cases h with
  | reset _ he =>
    cases he
    rfl
  | sequencer _ he | tick he | stall _ he | strap _ he | host _ he => cases he

/-- After a cut no move takes the mark away, and none adds anything to the trace but a free value. -/
theorem MoveMade.addsFreeTrace {m : Move} {s t : State} (h : MoveMade m s t) (hc : s.busCut = true) :
    t.busCut = true ∧ AddsFreeTrace s t := by
  by_cases hm : ∃ n, m = .reset n
  · obtain ⟨n, rfl⟩ := hm
    rw [h.eq_of_reset]
    exact cutPending_addsFreeTrace n hc
  · replace hm : ∀ n, m ≠ .reset n := not_exists.1 hm
    refine ⟨(h.busCut hm).trans hc, ?_⟩
    obtain hbus | ⟨i, op, tr, u, _, htr, ⟨_, rfl⟩ | ⟨k, _, rfl⟩⟩ := h.transaction hm
    · exact .inl hbus
    · exact op.run_addsFreeTrace hc
    · exact op.transaction_begin_addsFreeTrace (tr.stallAt k) htr hc

/-- Only a reset cuts a transaction: one that is pending, so not in IDLE, or a stalled one. -/
theorem MoveMade.reset_of_cut {m : Move} {s t : State} (h : MoveMade m s t) (hc : s.busCut = false)
    (ht : t.busCut = true) : (∃ n, m = .reset n) ∧ (s.seq ≠ .idle ∨ s.stalled = true) := by
  by_cases hm : ∃ n, m = .reset n
  · refine ⟨hm, ?_⟩
    obtain ⟨n, rfl⟩ := hm
    rw [h.eq_of_reset, applyReset_busCut] at ht
    obtain ⟨hst, _⟩ | ⟨_, he⟩ | ⟨_, tr, u, hp, _⟩ := cutPending_cases n s
    · exact .inr hst
    · simp [he, hc] at ht
    · exact .inl (pendingTransaction_some hp).1
  · have hkept := h.busCut (not_exists.1 hm)
    simp [hkept, hc] at ht

end Sys2Proof.Machine

/-! ### The statements of 70_reset_and_hazards.md -/

namespace Sys2Proof.Proofs

open Sys2Proof Sys2Proof.Machine

/-- Settles O49: the reset cuts the transaction that the sequencer's step would have performed, by `cutPending_cases`,
and leaves as many of its primitives as `Transaction.cutAt` says. -/
theorem resetCutsATransactionToAStrictPrefix : Obligations.ResetCutsATransactionToAStrictPrefix := by
  intro s u n hs hst hc hu
  obtain ⟨hbus, _, hp⟩ | ⟨tr, v, hbus, _, hp⟩ := sequencerStep_transaction hs hst hc hu
  · refine ⟨[], _, by simpa using hbus, rfl, ?_⟩
    obtain ⟨hst', _⟩ | ⟨_, he⟩ | ⟨_, _, _, hp', _⟩ := cutPending_cases n s
    · simp [hst] at hst'
    · simp [he, hc]
    · simp [hp] at hp'
  · refine ⟨tr.events v, _, hbus, rfl, ?_⟩
    obtain ⟨hst', _⟩ | ⟨h0, he⟩ | ⟨hn, _, _, hp', he⟩ := cutPending_cases n s
    · simp [hst] at hst'
    · obtain rfl : n = 0 := by simpa [hp] using h0
      simp [he, hc]
    · cases hp.symm.trans hp'
      have hv := pendingTransaction_state hp
      have hcut := tr.begin_cutAt_bus hn (s := v) (by rw [hv, hc])
      have hvb : v.bus = s.bus := by rw [hv]
      rw [applyReset_bus, applyReset_busCut, he]
      exact ⟨hcut.trans (by rw [hvb]), by simp [hn, tr.events_ne_nil v]⟩

/-- Settles O60: what every move does to the mark and to the trace, read of the move a step makes. -/
theorem traceAfterACutIsUnconstrained : Obligations.TraceAfterACutIsUnconstrained := by
  refine ⟨fun s t hc h => (step_inv h).addsFreeTrace hc, fun s t hc h ht => ?_⟩
  obtain ⟨hm, hs⟩ := (step_inv h).reset_of_cut hc ht
  exact ⟨resetNext_iff.2 hm, hs⟩

/-- Settles O48: the registers are those `applyReset` loads, and the cut before it reaches none of the ports named. -/
theorem resetInARunGivesTheResetState : Obligations.ResetInARunGivesTheResetState := by
  intro s n r hsc
  obtain ⟨haddr, hsess, hresg⟩ := applyReset_cutPending_registers n { s with sched := r }
  have hcfg := (cutPending_keepsAddress n { s with sched := r }).cfg
  exact ⟨_, step_of_sched_cons hsc, haddr, hsess, rfl, rfl, rfl, hresg, rfl, cutPending_rsps n _, cutPending_cmds n _,
    hcfg, cutPending_sched n _, rfl, fun h => cutPending_bus_of_none_issued h⟩

end Sys2Proof.Proofs
